-- ==== Sys2Proof/Word.lean ====
section
/-! DEFINITION. The machine's two data widths (`00_scope.md` rules R3 and R8). -/

namespace Sys2Proof

/-- The spec's "Word": 8 bits, the width of a register, a memory cell, an ALU operand and one bus
transfer (R3). Bit 0 is the least significant (R8). -/
abbrev Byte := BitVec 8

/-- The spec's "Address": 16 bits, the bus addressing unit (R3, R60). All address arithmetic wraps
modulo 65536 (R67), which is the arithmetic of `BitVec 16`. -/
abbrev Addr := BitVec 16

end Sys2Proof
end

