-- ==== Sys2Proof/Syntax.lean ====
section
/-! DEFINITION. The instruction set: one constructor per row of `spec/opcode_table.json`
(`30_encoding.md` rules R95 and R96). Fields an instruction ignores (R107) are no operands. -/

namespace Sys2Proof

/-- The four general registers (R21); no selector names any other register. -/
inductive Reg where
  | r0 | r1 | r2 | r3
deriving DecidableEq, Repr

/-- The 23 instructions and the two reserved encodings. -/
inductive Instr where
  /-- `LDI Rd, imm8` (R120). -/
  | ldi (rd : Reg) (imm : Byte)
  /-- `LD Rd, [imm16]` (R121). -/
  | ld (rd : Reg) (addr : Addr)
  /-- `ST [imm16], Rd` (R122); the register is the `rd` field. -/
  | st (addr : Addr) (rd : Reg)
  /-- `ADD Rd, Rs` (R140). -/
  | add (rd rs : Reg)
  /-- `SUB Rd, Rs` (R141). -/
  | sub (rd rs : Reg)
  /-- `AND Rd, Rs` (R142). -/
  | and (rd rs : Reg)
  /-- `OR Rd, Rs` (R143). -/
  | or (rd rs : Reg)
  /-- `MOV Rd, Rs` (R123). -/
  | mov (rd rs : Reg)
  /-- `CMP Rd, Rs` (R144). -/
  | cmp (rd rs : Reg)
  /-- `JMP imm16` (R150). -/
  | jmp (target : Addr)
  /-- `JZ imm16` (R151). -/
  | jz (target : Addr)
  /-- `JNZ imm16` (R152). -/
  | jnz (target : Addr)
  /-- `ADDI Rd, imm8` (R145). -/
  | addi (rd : Reg) (imm : Byte)
  /-- `CALL imm16` (R153). -/
  | call (target : Addr)
  /-- `HLT` (R170). -/
  | hlt
  /-- `NOP` (R165). -/
  | nop
  /-- `CLI` (R166). -/
  | cli
  /-- `STI` (R167). -/
  | sti
  /-- `RTI` (R168). -/
  | rti
  /-- `PUSH Rd` (R160). -/
  | push (rd : Reg)
  /-- `POP Rd` (R161). -/
  | pop (rd : Reg)
  /-- `RET` (R154). -/
  | ret
  /-- `SWI imm8` (R169). -/
  | swi (n : Byte)
  /-- Byte 2 = 0x0B: reserved, without defined behaviour (R108). -/
  | reserved0B
  /-- Byte 2 = 0x0F: reserved, without defined behaviour (R108). -/
  | reserved0F
deriving DecidableEq, Repr

end Sys2Proof
end

