-- ==== Sys2Proof/Decode.lean ====
section
/-! DEFINITION. From an instruction's three bytes to an `Instr` and back (`30_encoding.md` rules R90 to
R96, R106, R107, R111). -/

namespace Sys2Proof

/-- The register with selector `v` (R21). -/
def Reg.ofSel (v : BitVec 2) : Reg :=
  if v = 0#2 then .r0 else if v = 1#2 then .r1 else if v = 2#2 then .r2 else .r3

/-- The 2-bit selector of a register (R21). -/
def Reg.sel : Reg → BitVec 2
  | .r0 => 0#2
  | .r1 => 1#2
  | .r2 => 2#2
  | .r3 => 3#2

/-- `opcode = ir.b2[7:4]` (R93). -/
def opcodeField (b2 : Byte) : BitVec 4 := b2.extractLsb' 4 4

/-- `rd = ir.b2[3:2]` (R93). -/
def rdField (b2 : Byte) : BitVec 2 := b2.extractLsb' 2 2

/-- `rs = ir.b2[1:0]` (R93). -/
def rsField (b2 : Byte) : BitVec 2 := b2.extractLsb' 0 2

/-- `imm16 = ir.b1 * 256 + ir.b0` (R93): byte 1 is the high byte (R69). -/
def imm16Field (b0 b1 : Byte) : Addr := b1 ++ b0

/-- The low byte of an address, `lo8` (`00_scope.md` section 5.1). -/
def lo8 (a : Addr) : Byte := a.extractLsb' 0 8

/-- The high byte of an address, `hi8` (`00_scope.md` section 5.1). -/
def hi8 (a : Addr) : Byte := a.extractLsb' 8 8

/-- The misc sub-dispatch of opcode 0x0: on `rs`, and within `rs = 0` and `rs = 3` on `rd` (R96). -/
def decodeMisc (b0 b2 : Byte) : Instr :=
  match (rsField b2).toNat, (rdField b2).toNat with
  | 0, 0 => .nop
  | 0, 1 => .cli
  | 0, 2 => .sti
  | 0, _ => .rti
  | 1, _ => .push (Reg.ofSel (rdField b2))
  | 2, _ => .pop (Reg.ofSel (rdField b2))
  | _, 0 => .ret
  | _, 1 => .swi b0
  | _, 2 => .reserved0B
  | _, _ => .reserved0F

/-- The instruction of three bytes at consecutive addresses, selected by byte 2 alone (R91, R95, R106).
Fields an instruction does not use are ignored (R107). The last arm is opcode 0xF. -/
def decodeBytes (b0 b1 b2 : Byte) : Instr :=
  let rd := Reg.ofSel (rdField b2)
  let rs := Reg.ofSel (rsField b2)
  let imm16 := imm16Field b0 b1
  match (opcodeField b2).toNat with
  | 0x0 => decodeMisc b0 b2
  | 0x1 => .ldi rd b0
  | 0x2 => .ld rd imm16
  | 0x3 => .st imm16 rd
  | 0x4 => .add rd rs
  | 0x5 => .sub rd rs
  | 0x6 => .and rd rs
  | 0x7 => .or rd rs
  | 0x8 => .mov rd rs
  | 0x9 => .cmp rd rs
  | 0xA => .jmp imm16
  | 0xB => .jz imm16
  | 0xC => .jnz imm16
  | 0xD => .addi rd b0
  | 0xE => .call imm16
  | _ => .hlt

/-- Why a byte sequence is no instruction. -/
inductive DecodeError where
  /-- Fewer than the three bytes every instruction has (R90). The machine's fetch always supplies three,
  so no step meets this. -/
  | truncated
deriving DecidableEq, Repr

/-- Decode the front of a byte sequence: the instruction and the bytes after it. Total on any bytes. -/
def decode : List Byte → Except DecodeError (Instr × List Byte)
  | b0 :: b1 :: b2 :: rest => .ok (decodeBytes b0 b1 b2, rest)
  | _ => .error .truncated

/-- Byte 2 of an instruction, `(opcode << 4) | (rd << 2) | rs` (R91, R94). -/
def byte2 (opcode : BitVec 4) (rd rs : BitVec 2) : Byte := opcode ++ rd ++ rs

/-- The three bytes in memory order: immediate low, immediate high, byte 2 (R91, R94). -/
def encodeWith (opcode : BitVec 4) (rd rs : BitVec 2) (imm : Addr) : List Byte :=
  [lo8 imm, hi8 imm, byte2 opcode rd rs]

/-- The canonical encoding: 0 in every ignored field (R94, R111). -/
def encode : Instr → List Byte
  | .ldi rd imm => encodeWith 0x1#4 rd.sel 0#2 (0#8 ++ imm)
  | .ld rd a => encodeWith 0x2#4 rd.sel 0#2 a
  | .st a rd => encodeWith 0x3#4 rd.sel 0#2 a
  | .add rd rs => encodeWith 0x4#4 rd.sel rs.sel 0#16
  | .sub rd rs => encodeWith 0x5#4 rd.sel rs.sel 0#16
  | .and rd rs => encodeWith 0x6#4 rd.sel rs.sel 0#16
  | .or rd rs => encodeWith 0x7#4 rd.sel rs.sel 0#16
  | .mov rd rs => encodeWith 0x8#4 rd.sel rs.sel 0#16
  | .cmp rd rs => encodeWith 0x9#4 rd.sel rs.sel 0#16
  | .jmp a => encodeWith 0xA#4 0#2 0#2 a
  | .jz a => encodeWith 0xB#4 0#2 0#2 a
  | .jnz a => encodeWith 0xC#4 0#2 0#2 a
  | .addi rd imm => encodeWith 0xD#4 rd.sel 0#2 (0#8 ++ imm)
  | .call a => encodeWith 0xE#4 0#2 0#2 a
  | .hlt => encodeWith 0xF#4 0#2 0#2 0#16
  | .nop => encodeWith 0x0#4 0#2 0#2 0#16
  | .cli => encodeWith 0x0#4 1#2 0#2 0#16
  | .sti => encodeWith 0x0#4 2#2 0#2 0#16
  | .rti => encodeWith 0x0#4 3#2 0#2 0#16
  | .push rd => encodeWith 0x0#4 rd.sel 1#2 0#16
  | .pop rd => encodeWith 0x0#4 rd.sel 2#2 0#16
  | .ret => encodeWith 0x0#4 0#2 3#2 0#16
  | .swi n => encodeWith 0x0#4 1#2 3#2 (0#8 ++ n)
  | .reserved0B => encodeWith 0x0#4 2#2 3#2 0#16
  | .reserved0F => encodeWith 0x0#4 3#2 3#2 0#16

/-- The bytes, in memory order, of the word `W = byte2 << 16 | byte1 << 8 | byte0` (R92). -/
def wordBytes (w : Nat) : List Byte :=
  [BitVec.ofNat 8 w, BitVec.ofNat 8 (w / 256), BitVec.ofNat 8 (w / 65536)]

/-- The instruction the decoder reads from the low `nbits` bits of `w`, numbered as
`spec/opcode_table.json` numbers them, every higher bit 0. -/
def decodeTableWord (nbits w : Nat) : Option Instr :=
  match decode (wordBytes (w % 2 ^ nbits)) with
  | .ok (i, _) => some i
  | .error _ => none

end Sys2Proof
end

