-- ==== Sys2Proof/Config.lean ====
section
/-! DEFINITION. The fixed constants of `00_scope.md` rule R4, and the free values, which nothing
constrains, where the spec leaves a value open (rule R5). -/

namespace Sys2Proof

/-- `PC_RESET` (R4), which is also `ENTRY` (R242, decision D23). -/
def Config.pcReset : Addr := 0x0000#16

/-- `SP_RESET` (R4, R25): the last byte of RAM and of the vector table (`90_conflicts.md` C1). -/
def Config.spReset : Addr := 0xEFFF#16

/-- `RAM_LAST` (R4): the last address routed to RAM. -/
def Config.ramLast : Nat := 0xEFFF

/-- `IVT_BASE` (R4): the first byte of the interrupt vector table. -/
def Config.ivtBase : Addr := 0xEFF0#16

/-- `IO_BASE` (R4): the first address routed to I/O. -/
def Config.ioBase : Nat := 0xF000

/-- `TIMER_IRQ` (R4): the interrupt number the timer raises. -/
def Config.timerIrq : Nat := 1

/-- `UART_IRQ` (R4): the interrupt number raised per received byte. -/
def Config.uartIrq : Nat := 2

/-- `PC_STEP` (R4): what a fetch adds to the program counter. -/
def Config.pcStep : Addr := 3#16

/-- `RAM_INIT` (R5, R64, decision D3): the power-on contents of each RAM address, which a read of an address
that nothing has written gives. A free value, one per address for the machine's whole life: nothing constrains
it (R243: "a model must not assume that is NOPs or HLT"; log entry 3). -/
opaque Config.ramInit : Nat → Byte

/-- `FLAGS_INIT` after the `n`-th reset the host makes while the machine runs, as (Z, C) (R39, decision
D2: "taken afresh at power-on and at every reset"). A free value: nothing constrains it (log entry 5). -/
opaque Config.flagsAfterReset : Nat → Bool × Bool

/-- Byte `k` of the instruction register after the `n`-th reset the host makes (R33, R39, decision D4).
A free value (log entry 5). -/
opaque Config.irAfterReset : Nat → Nat → Byte

/-- What a stand-alone SR latch that stores `q` holds after `set = reset = 1` (R42, U2: "any value").
A free value (log entry 18); no block of the CORE drives that input. -/
opaque Config.srInvalid : Bool → Bool

end Sys2Proof
end

