-- ==== Sys2Proof/Machine/State.lean ====
section
/-! DEFINITION. The whole state of the machine (`10_state.md` rule R20) as plain data, what stops it, the
state right after power-on and reset, and one named update per field. -/

namespace Sys2Proof.Machine

/-- The register file: R0..R3, 8 bits each (R21). -/
structure RegFile where
  r0 : Byte
  r1 : Byte
  r2 : Byte
  r3 : Byte
deriving DecidableEq, Repr

/-- The instruction register: the three bytes of the last fetch (R33). -/
structure InstrReg where
  b0 : Byte
  b1 : Byte
  b2 : Byte
deriving DecidableEq, Repr

/-- The timer's state (R35). -/
structure Timer where
  /-- `tmr.reload`: what register 0 holds. -/
  reload : Byte
  /-- `tmr.counter`: the running count, which has no address. -/
  counter : Byte
  /-- `tmr.enable`: bit 1 of register 1. -/
  enable : Bool
  /-- `tmr.fired`: bit 0 of register 1. -/
  fired : Bool
deriving DecidableEq, Repr

/-- The UART's two queues, oldest byte first, unbounded (R36, R217). -/
structure Uart where
  /-- `uart.rx`: pushed by the host, not yet read by the CPU. -/
  rx : List Byte
  /-- `uart.tx`: written by the CPU, not yet drained by the host. -/
  tx : List Byte
deriving DecidableEq, Repr

/-- RAM as the list of the bytes written since power-on, by the CPU or the host; an address that is not listed
reads as `Config.ramInit` (R64). Its canonical form is `Memory.wf`. -/
abbrev Memory := List Host.Cell

/-- What the host can do between two iterations of the driver loop (R222 to R226). -/
inductive HostAction where
  /-- `load_program(bytes, addr)` (R223). -/
  | load (bytes : List Byte) (addr : Addr)
  /-- `HostPushRx(b)` (R215). -/
  | pushRx (b : Byte)
  /-- `HostDrainTx()` (R216). -/
  | drainTx
  /-- `RaiseInterrupt(n)` on a line of its own (R225). -/
  | raiseLine (n : Nat)
  /-- `reset()` (R226, R240). -/
  | reset
  /-- A read through the bus accessor, with the bus's side effect (R226). -/
  | busRead (addr : Addr)
deriving DecidableEq, Repr

/-- Why the machine stops with a fault: never. "The emulator defines no error kinds at the boundary; every
machine action has a deterministic outcome" (R7, R180), so this type has no constructor. Safe: a model
without a fault stops nowhere that the hardware goes on. -/
inductive Fault where
deriving DecidableEq, Repr

/-- Why a step has no result. -/
inductive Refusal where
  /-- An instruction that `exec` gives no meaning yet, by its mnemonic. Raised only by an arm of `exec`, and by
  none now. Safe: no claim can be made about such a step. -/
  | notModelled (mnemonic : String)
  /-- Raised by `execReserved0B`: byte 2 = 0x0B has no defined behaviour and a model refuses a run that reaches
  it (R108, U1). Safe: the hardware may go on, and nothing is claimed of how. -/
  | reservedEncoding0B
  /-- Raised by `execReserved0F`: byte 2 = 0x0F has no defined behaviour and a model refuses a run that reaches
  it (R108, U1). Safe: the hardware may go on, and nothing is claimed of how. -/
  | reservedEncoding0F
deriving DecidableEq, Repr

/-- The machine: CPU, RAM, timer, UART (R20), and the host's side of it. -/
structure State where
  /-- `x[0]`..`x[3]` (R21). -/
  x : RegFile
  /-- The program counter (R23). -/
  pc : Addr
  /-- The stack pointer (R25). -/
  sp : Addr
  /-- The zero flag `Z` (R26). -/
  z : Bool
  /-- The carry flag `C` (R26). -/
  c : Bool
  /-- `IE`, the interrupt enable (R30). -/
  ie : Bool
  /-- `pend`, the pending mask: bit `n` is interrupt `n` (R31). -/
  pend : BitVec 8
  /-- `halted` (R32). -/
  halted : Bool
  /-- The instruction register (R33). -/
  ir : InstrReg
  /-- `ram[0x0000..0xEFFF]` (R34). -/
  ram : Memory
  /-- The timer (R35). -/
  tmr : Timer
  /-- The UART (R36). -/
  uart : Uart
  /-- The MODEL's own: the host schedule, a launch parameter (R5, R222, decision D19). Entry `k` lists what the
  host does before the `k`-th iteration from now; past its end the host does nothing (log entry 7). -/
  hostPlan : List (List HostAction)
  /-- The MODEL's own: every byte the host has drained from `uart.tx`, oldest first (R216, log entry 7). -/
  hostOut : List Byte
  /-- The MODEL's own: how many resets the host has made, which picks the next free values (log entry 5). -/
  resets : Nat
deriving DecidableEq, Repr

/-- Power-on followed by a reset (R38, R40): pc, sp, IE, pend, halted, timer and UART as the spec states them.
The registers, the flags and the instruction register are unspecified there; the model names zero for each
(DESIGN CHOICE, unsafe: log entries 1, 2 and 4). Nothing has been written to RAM: every byte of it is the free
`Config.ramInit` (R243, log entry 3). The host plans nothing. -/
def State.reset : State where
  x := ⟨0, 0, 0, 0⟩
  pc := Config.pcReset
  sp := Config.spReset
  z := false
  c := false
  ie := false
  pend := 0x00
  halted := false
  ir := ⟨0, 0, 0⟩
  ram := []
  tmr := ⟨0, 0, false, false⟩
  uart := ⟨[], []⟩
  hostPlan := []
  hostOut := []
  resets := 0

/-- `s` with another register file. -/
def State.setX (s : State) (v : RegFile) : State := { s with x := v }
/-- `s` with another program counter. -/
def State.setPc (s : State) (v : Addr) : State := { s with pc := v }
/-- `s` with another stack pointer. -/
def State.setSp (s : State) (v : Addr) : State := { s with sp := v }
/-- `s` with other flags. -/
def State.setFlags (s : State) (z c : Bool) : State := { s with z := z, c := c }
/-- `s` with another interrupt enable. -/
def State.setIe (s : State) (v : Bool) : State := { s with ie := v }
/-- `s` with another pending mask. -/
def State.setPend (s : State) (v : BitVec 8) : State := { s with pend := v }
/-- `s` with another halt flag. -/
def State.setHalted (s : State) (v : Bool) : State := { s with halted := v }
/-- `s` with another instruction register. -/
def State.setIr (s : State) (v : InstrReg) : State := { s with ir := v }
/-- `s` with another RAM. -/
def State.setRam (s : State) (v : Memory) : State := { s with ram := v }
/-- `s` with another timer. -/
def State.setTmr (s : State) (v : Timer) : State := { s with tmr := v }
/-- `s` with another UART. -/
def State.setUart (s : State) (v : Uart) : State := { s with uart := v }
/-- `s` with another host schedule. -/
def State.setHostPlan (s : State) (v : List (List HostAction)) : State := { s with hostPlan := v }
/-- `s` with other drained bytes. -/
def State.setHostOut (s : State) (v : List Byte) : State := { s with hostOut := v }
/-- `s` with another count of resets. -/
def State.setResets (s : State) (v : Nat) : State := { s with resets := v }

end Sys2Proof.Machine
end

