-- ==== Sys2Proof/Machine/Devices.lean ====
section
/-! DEFINITION. The timer and the UART: their registers (`60_exceptions.md` rules R200 to R217), without the
bus that reaches them. -/

namespace Sys2Proof.Machine

/-- `TimerRead(0)`: the reload value, not the running count (R203). -/
def Timer.read0 (t : Timer) : Byte := t.reload

/-- `TimerRead(1)`: bit 0 = fired, bit 1 = enable, bits 7..2 = 0; the read acknowledges nothing (R204). -/
def Timer.read1 (t : Timer) : Byte := 0#6 ++ BitVec.ofBool t.enable ++ BitVec.ofBool t.fired

/-- `TimerWrite(0, v)`: sets reload and counter, neither enables nor acknowledges (R201). -/
def Timer.write0 (t : Timer) (v : Byte) : Timer := { t with reload := v, counter := v }

/-- `TimerWrite(1, v)`: enable from bit 1; every write acknowledges (R202). -/
def Timer.write1 (t : Timer) (v : Byte) : Timer := { t with enable := v.getLsbD 1, fired := false }

/-- Whether a tick takes the enabled counter to zero (R205). A count that already is 0 wraps to 0xFF
(R206, decision D8). -/
def Timer.fires (t : Timer) : Bool := t.enable && decide (t.counter - 1#8 = 0#8)

/-- The timer's own part of a tick: decrement when enabled, and on reaching zero set fired and reload
(R205). -/
def Timer.tick (t : Timer) : Timer :=
  if t.fires then { t with fired := true, counter := t.reload }
  else if t.enable then { t with counter := t.counter - 1#8 }
  else t

/-- `UartReadData()`: dequeue the oldest received byte, 0x00 if there is none (R212). -/
def Uart.readData (u : Uart) : Byte × Uart :=
  match u.rx with
  | [] => (0x00#8, u)
  | v :: rx => (v, { u with rx := rx })

/-- `UartReadStatus()`: bit 0 = a byte waits, bit 1 = transmit ready, always 1 (R213). -/
def Uart.readStatus (u : Uart) : Byte := 0#6 ++ 1#1 ++ BitVec.ofBool (!u.rx.isEmpty)

/-- `UartWriteData(v)`: append to the transmit queue (R211). -/
def Uart.writeData (u : Uart) (v : Byte) : Uart := { u with tx := u.tx ++ [v] }

/-- The UART after the host pushes one received byte (R215). -/
def Uart.pushRx (u : Uart) (b : Byte) : Uart := { u with rx := u.rx ++ [b] }

end Sys2Proof.Machine
end

