-- ==== Sys2Proof/Machine/Flags.lean ====
section
/-! DEFINITION. The ALU with its two flag outputs (`41_alu.md` rules R134 to R138) and the packed flags byte
(`10_state.md` rule R29). -/

namespace Sys2Proof.Machine

/-- The four ALU operations (R134). -/
inductive AluOp where
  | add | sub | and | or
deriving DecidableEq, Repr

/-- The operation the two opcode bits select (R134). -/
def AluOp.ofBits (op1 op0 : Bool) : AluOp :=
  match op1, op0 with
  | false, false => .add
  | false, true => .sub
  | true, false => .and
  | true, true => .or

/-- What the ALU answers: `(result, carry, zero)` (R134). -/
structure AluOut where
  result : Byte
  carry : Bool
  zero : Bool
deriving DecidableEq, Repr

/-- Narrow an exact adder sum to 8 bits; the carry is the adder's carry-out (R133). -/
def aluArith (exact : Nat) : AluOut where
  result := BitVec.ofNat 8 exact
  carry := decide (256 ≤ exact)
  zero := decide (BitVec.ofNat 8 exact = 0#8)

/-- A logic result: the carry is forced to 0 (R135, R138). -/
def aluLogic (result : Byte) : AluOut where
  result := result
  carry := false
  zero := decide (result = 0#8)

/-- `ALU(op, a, b)` (R134, R135). SUB is `a + (NOT b) + 1`, so its carry is 1 exactly when there is no
borrow (R137). -/
def alu (op : AluOp) (a b : Byte) : AluOut :=
  match op with
  | .add => aluArith (a.toNat + b.toNat)
  | .sub => aluArith (a.toNat + (~~~b).toNat + 1)
  | .and => aluLogic (a &&& b)
  | .or => aluLogic (a ||| b)

/-- Latch both flags from the ALU's outputs (R26, R135). -/
def State.latchFlags (s : State) (o : AluOut) : State := s.setFlags o.zero o.carry

/-- `PackFlags()`: bit 0 = Z, bit 1 = C, bit 2 = IE, bits 7..3 = 0 (R29, decision D16). -/
def State.packFlags (s : State) : Byte :=
  0#5 ++ BitVec.ofBool s.ie ++ BitVec.ofBool s.c ++ BitVec.ofBool s.z

/-- Unpack a flags byte: `Z`, `C` and `IE` from bits 0, 1 and 2; bits 7..3 are ignored (R29). -/
def State.unpackFlags (s : State) (f : Byte) : State :=
  (s.setFlags (f.getLsbD 0) (f.getLsbD 1)).setIe (f.getLsbD 2)

end Sys2Proof.Machine
end

