-- ==== Sys2Proof/Machine/Memory.lean ====
section
/-! DEFINITION. RAM as a canonical list of the bytes written so far (`20_memory.md` rules R62, R63, R64). -/

namespace Sys2Proof.Machine

/-- The canonical form from address `lo` up: addresses strictly rising and routed to RAM (R63). An address that
is not listed holds no value of State's own, so no entry repeats one. -/
def Memory.wfFrom : Nat → Memory → Bool
  | _, [] => true
  | lo, (k, _) :: m => decide (lo ≤ k) && decide (k ≤ Config.ramLast) && Memory.wfFrom (k + 1) m

/-- The canonical form of a RAM: equal memories are equal lists. -/
def Memory.wf (m : Memory) : Bool := Memory.wfFrom 0 m

/-- The byte last written at address `a`, if any was. -/
def Memory.find : Memory → Nat → Option Byte
  | [], _ => none
  | (k, v) :: m, a => if k = a then some v else Memory.find m a

/-- The byte at address `a`: the most recent write, else the power-on value (R64). -/
def Memory.read (m : Memory) (a : Nat) : Byte := (Memory.find m a).getD (Config.ramInit a)

/-- RAM after one byte is written: the entry of address `a`, in its place, and no other (R62: a write
"mutate[s] one byte" and nothing else). -/
def Memory.write : Memory → Nat → Byte → Memory
  | [], a, v => [(a, v)]
  | (k, w) :: m, a, v =>
    if a < k then (a, v) :: (k, w) :: m
    else if k = a then (a, v) :: m
    else (k, w) :: Memory.write m a v

end Sys2Proof.Machine
end

