-- ==== Sys2Proof/Machine/Operands.lean ====
section
/-! DEFINITION. The register operands (`10_state.md` rules R21 and R22). The other operand forms, `imm8`,
`imm16` and the absolute address, are the instruction's own fields (`30_encoding.md` rule R93). -/

namespace Sys2Proof.Machine

/-- The read port: the register named by a selector. -/
def RegFile.get (x : RegFile) : Reg → Byte
  | .r0 => x.r0
  | .r1 => x.r1
  | .r2 => x.r2
  | .r3 => x.r3

/-- The write port: only the named register captures the value; none is hardwired. -/
def RegFile.set (x : RegFile) (r : Reg) (v : Byte) : RegFile :=
  match r with
  | .r0 => { x with r0 := v }
  | .r1 => { x with r1 := v }
  | .r2 => { x with r2 := v }
  | .r3 => { x with r3 := v }

/-- `x[i]`. -/
def State.reg (s : State) (r : Reg) : Byte := s.x.get r

/-- `x[i] <- v`. -/
def State.setReg (s : State) (r : Reg) (v : Byte) : State := s.setX (s.x.set r v)

end Sys2Proof.Machine
end

