-- ==== Sys2Proof/Machine/Ops.lean ====
section
/-! DEFINITION. The operations every instruction shares: the bus (`20_memory.md` rules R61 to R67), the stack
(R73 to R78), the interrupt controller with interrupt entry and return (`60_exceptions.md` rules R181 to
R191), and the fetch (`30_encoding.md` rule R99). -/

namespace Sys2Proof.Machine

/-- `IORead(off)` (R65): the byte read, and the state after the read's side effect (R79). -/
def State.ioRead (s : State) (off : Nat) : Byte × State :=
  match off with
  | 0 => (s.tmr.read0, s)
  | 1 => (s.tmr.read1, s)
  | 2 => (s.uart.readData.1, s.setUart s.uart.readData.2)
  | 3 => (s.uart.readStatus, s)
  | _ => (0x00#8, s)

/-- `IOWrite(off, v)` (R65): writes to the UART status register and to unmapped I/O are dropped (R214). -/
def State.ioWrite (s : State) (off : Nat) (v : Byte) : State :=
  match off with
  | 0 => s.setTmr (s.tmr.write0 v)
  | 1 => s.setTmr (s.tmr.write1 v)
  | 2 => s.setUart (s.uart.writeData v)
  | _ => s

/-- `MemRead(addr, 1)` (R61): the byte read, and the state after the read. -/
def State.memRead (s : State) (a : Addr) : Byte × State :=
  if a.toNat ≤ Config.ramLast then (s.ram.read a.toNat, s) else s.ioRead (a.toNat - Config.ioBase)

/-- `MemWrite(addr, 1, v)` (R62). -/
def State.memWrite (s : State) (a : Addr) (v : Byte) : State :=
  if a.toNat ≤ Config.ramLast then s.setRam (s.ram.write a.toNat v)
  else s.ioWrite (a.toNat - Config.ioBase) v

/-- The byte a read of `a` would return now, without the read's side effect. -/
def State.byteAt (s : State) (a : Addr) : Byte := (s.memRead a).1

/-- `Read16LE(a)`: low byte first (R73). -/
def State.read16LE (s : State) (a : Addr) : Addr × State :=
  let lo := s.memRead a
  let hi := lo.2.memRead (a + 1#16)
  (imm16Field lo.1 hi.1, hi.2)

/-- `Push8(v)`: decrement, then write (R74). -/
def State.push8 (s : State) (v : Byte) : State :=
  (s.setSp (s.sp - 1#16)).memWrite (s.sp - 1#16) v

/-- `Pop8()`: read, then increment (R75). -/
def State.pop8 (s : State) : Byte × State :=
  let r := s.memRead s.sp
  (r.1, r.2.setSp (s.sp + 1#16))

/-- `Push16(w)`: high byte first (R76). -/
def State.push16 (s : State) (w : Addr) : State :=
  (s.push8 (hi8 w)).push8 (lo8 w)

/-- `Pop16()`: low byte first (R77). -/
def State.pop16 (s : State) : Addr × State :=
  let lo := s.pop8
  let hi := lo.2.pop8
  (imm16Field lo.1 hi.1, hi.2)

/-- The bit of `pend` that stands for interrupt `n` (R31). -/
def irqBit (n : Nat) : BitVec 8 := BitVec.twoPow 8 n

/-- `RaiseInterrupt(n)`: set a pending bit; out-of-range numbers are ignored (R182). Nothing is counted
(R183). -/
def State.raiseInterrupt (s : State) (n : Nat) : State :=
  if n ≤ 7 then s.setPend (s.pend ||| irqBit n) else s

/-- The lowest-numbered pending interrupt (R184, R185). -/
def lowestPending (p : BitVec 8) : Option Nat :=
  [0, 1, 2, 3, 4, 5, 6, 7].find? (fun n => p.getLsbD n)

/-- The interrupt a step that starts now dispatches, if any (R184): the halted test is the step's. -/
def State.dispatchable (s : State) : Option Nat :=
  if s.ie then lowestPending s.pend else none

/-- `IVT_BASE + 2*n` in 16-bit arithmetic, with the full 8-bit number (R186, R194, decision D15). -/
def vectorAddr (n : Byte) : Addr := Config.ivtBase + 2#16 * n.setWidth 16

/-- `EnterInterrupt(n)`, the one way an interrupt or SWI is taken (R186): pack the flags, push the pc and the
flags byte, clear IE, and only then read the vector and jump. -/
def State.enterInterrupt (s : State) (n : Byte) : State :=
  let s1 := ((s.push16 s.pc).push8 s.packFlags).setIe false
  let v := s1.read16LE (vectorAddr n)
  v.2.setPc v.1

/-- The return from an interrupt (R168, R191): pop the flags byte, pop the return address, unpack, jump. -/
def State.returnFromInterrupt (s : State) : State :=
  let f := s.pop8
  let ra := f.2.pop16
  (ra.2.unpackFlags f.1).setPc ra.1

/-- The dispatch of pending interrupt `n`: clear its bit, then enter (R184). -/
def State.takeInterrupt (s : State) (n : Nat) : State :=
  (s.setPend (s.pend &&& ~~~ irqBit n)).enterInterrupt (BitVec.ofNat 8 n)

/-- The fetch (R99): three bus reads in ascending address order into the instruction register, then the pc
advances by 3. -/
def State.fetch (s : State) : State :=
  let r0 := s.memRead s.pc
  let r1 := r0.2.memRead (s.pc + 1#16)
  let r2 := r1.2.memRead (s.pc + 2#16)
  (r2.2.setIr ⟨r0.1, r1.1, r2.1⟩).setPc (s.pc + Config.pcStep)

/-- The instruction the instruction register holds (R93, R101). -/
def State.decoded (s : State) : Instr := decodeBytes s.ir.b0 s.ir.b1 s.ir.b2

/-- `TimerTick()` (R205): the timer counts, and raises interrupt 1 on reaching zero. -/
def State.timerTick (s : State) : State :=
  if s.tmr.fires then (s.setTmr s.tmr.tick).raiseInterrupt Config.timerIrq else s.setTmr s.tmr.tick

end Sys2Proof.Machine
end

