-- ==== Sys2Proof/Machine/AluOps.lean ====
section
/-! DEFINITION. Arithmetic and logic: ADD, SUB, AND, OR, CMP, ADDI (`41_alu.md`).

Every meaning runs after the fetch has advanced `pc` by 3 (R99) and answers a next state: nothing in this
machine traps (R180). -/

namespace Sys2Proof.Machine

/-- Write the ALU's result to `rd` and latch both flags: register writeback, then flags (R116). -/
def State.writeAlu (s : State) (rd : Reg) (o : AluOut) : State := (s.setReg rd o.result).latchFlags o

/-- ADD (R140). -/
def execAdd (rd rs : Reg) (s : State) : Host.Outcome State Fault Refusal :=
  .next (s.writeAlu rd (alu .add (s.reg rd) (s.reg rs)))

/-- SUB (R141). -/
def execSub (rd rs : Reg) (s : State) : Host.Outcome State Fault Refusal :=
  .next (s.writeAlu rd (alu .sub (s.reg rd) (s.reg rs)))

/-- AND (R142). -/
def execAnd (rd rs : Reg) (s : State) : Host.Outcome State Fault Refusal :=
  .next (s.writeAlu rd (alu .and (s.reg rd) (s.reg rs)))

/-- OR (R143). -/
def execOr (rd rs : Reg) (s : State) : Host.Outcome State Fault Refusal :=
  .next (s.writeAlu rd (alu .or (s.reg rd) (s.reg rs)))

/-- CMP (R144): the flags of SUB, no register written. -/
def execCmp (rd rs : Reg) (s : State) : Host.Outcome State Fault Refusal :=
  .next (s.latchFlags (alu .sub (s.reg rd) (s.reg rs)))

/-- ADDI (R145): the immediate is an unsigned byte. -/
def execAddi (rd : Reg) (imm : Byte) (s : State) : Host.Outcome State Fault Refusal :=
  .next (s.writeAlu rd (alu .add (s.reg rd) imm))

end Sys2Proof.Machine
end

