-- ==== Sys2Proof/Machine/Control.lean ====
section
/-! DEFINITION. Control transfer: JMP, JZ, JNZ, CALL, RET (`42_control_transfer.md`).

Every meaning runs after the fetch has advanced `pc` by 3 (R99) and answers a next state: nothing in this
machine traps (R180). -/

namespace Sys2Proof.Machine

/-- JMP (R150): the target is absolute and unrestricted (R155, R156). -/
def execJmp (target : Addr) (s : State) : Host.Outcome State Fault Refusal :=
  .next (s.setPc target)

/-- JZ (R151). -/
def execJz (target : Addr) (s : State) : Host.Outcome State Fault Refusal :=
  .next (if s.z then s.setPc target else s)

/-- JNZ (R152). -/
def execJnz (target : Addr) (s : State) : Host.Outcome State Fault Refusal :=
  .next (if s.z then s else s.setPc target)

/-- CALL (R153): push the advanced pc, high byte first, then jump. -/
def execCall (target : Addr) (s : State) : Host.Outcome State Fault Refusal :=
  .next ((s.push16 s.pc).setPc target)

/-- RET (R154): pop the target, low byte first. -/
def execRet (s : State) : Host.Outcome State Fault Refusal :=
  .next (s.pop16.2.setPc s.pop16.1)

end Sys2Proof.Machine
end

