-- ==== Sys2Proof/Machine/LoadStore.lean ====
section
/-! DEFINITION. Data movement: LDI, LD, ST, MOV (`40_load_store_move.md`).

Every meaning runs after the fetch has advanced `pc` by 3 (R99) and answers a next state: nothing in this
machine traps (R180). -/

namespace Sys2Proof.Machine

/-- LDI (R120): no flag is written. -/
def execLdi (rd : Reg) (imm : Byte) (s : State) : Host.Outcome State Fault Refusal :=
  .next (s.setReg rd imm)

/-- LD (R121): one bus read, with its side effect at 0xF002. -/
def execLd (rd : Reg) (addr : Addr) (s : State) : Host.Outcome State Fault Refusal :=
  .next ((s.memRead addr).2.setReg rd (s.memRead addr).1)

/-- ST (R122): one bus write of the register the `rd` field names. -/
def execSt (addr : Addr) (rd : Reg) (s : State) : Host.Outcome State Fault Refusal :=
  .next (s.memWrite addr (s.reg rd))

/-- MOV (R123): no flag is written. -/
def execMov (rd rs : Reg) (s : State) : Host.Outcome State Fault Refusal :=
  .next (s.setReg rd (s.reg rs))

end Sys2Proof.Machine
end

