-- ==== Sys2Proof/Machine/Reserved.lean ====
section
/-! DEFINITION. The two reserved encodings (`30_encoding.md` rule R108, `93_implementation_defined.md` U1):
"A model must give them no value-producing meaning: it refuses a program that reaches one". -/

namespace Sys2Proof.Machine

/-- Byte 2 = 0x0B: refused by name (R108). -/
def execReserved0B (_ : State) : Host.Outcome State Fault Refusal :=
  .refused .reservedEncoding0B

/-- Byte 2 = 0x0F: refused by name (R108). -/
def execReserved0F (_ : State) : Host.Outcome State Fault Refusal :=
  .refused .reservedEncoding0F

end Sys2Proof.Machine
end

