-- ==== Sys2Proof/Machine/Stack.lean ====
section
/-! DEFINITION. Stack: PUSH, POP (`43_stack.md`).

Every meaning runs after the fetch has advanced `pc` by 3 (R99) and answers a next state: nothing in this
machine traps (R180). -/

namespace Sys2Proof.Machine

/-- PUSH (R160). -/
def execPush (rd : Reg) (s : State) : Host.Outcome State Fault Refusal :=
  .next (s.push8 (s.reg rd))

/-- POP (R161): no flag is written. -/
def execPop (rd : Reg) (s : State) : Host.Outcome State Fault Refusal :=
  .next (s.pop8.2.setReg rd s.pop8.1)

end Sys2Proof.Machine
end

