-- ==== Sys2Proof/Machine/System.lean ====
section
/-! DEFINITION. System: NOP, CLI, STI, RTI, SWI, HLT (`44_system.md`).

Every meaning runs after the fetch has advanced `pc` by 3 (R99) and answers a next state: nothing in this
machine traps (R180). -/

namespace Sys2Proof.Machine

/-- NOP (R165): the fetch has already advanced `pc`. -/
def execNop (s : State) : Host.Outcome State Fault Refusal :=
  .next s

/-- CLI (R166): `pend` is not touched. -/
def execCli (s : State) : Host.Outcome State Fault Refusal :=
  .next (s.setIe false)

/-- STI (R167): no interrupt shadow. -/
def execSti (s : State) : Host.Outcome State Fault Refusal :=
  .next (s.setIe true)

/-- RTI (R168). -/
def execRti (s : State) : Host.Outcome State Fault Refusal :=
  .next s.returnFromInterrupt

/-- SWI (R169): not gated by IE, and `pend` is not touched. -/
def execSwi (n : Byte) (s : State) : Host.Outcome State Fault Refusal :=
  .next (s.enterInterrupt n)

/-- HLT (R170): `pc` keeps the advanced value. -/
def execHlt (s : State) : Host.Outcome State Fault Refusal :=
  .next (s.setHalted true)

end Sys2Proof.Machine
end

