-- ==== Sys2Proof/Machine/Dispatch.lean ====
section
/-! DEFINITION. One arm per instruction (`30_encoding.md` rules R95, R96 and R101). -/

namespace Sys2Proof.Machine

/-- The execute part of a step: `s` is the state after the fetch. -/
def exec (i : Instr) (s : State) : Host.Outcome State Fault Refusal :=
  match i with
  | .ldi rd imm => Sys2Proof.Machine.execLdi rd imm s
  | .ld rd addr => Sys2Proof.Machine.execLd rd addr s
  | .st addr rd => Sys2Proof.Machine.execSt addr rd s
  | .add rd rs => Sys2Proof.Machine.execAdd rd rs s
  | .sub rd rs => Sys2Proof.Machine.execSub rd rs s
  | .and rd rs => Sys2Proof.Machine.execAnd rd rs s
  | .or rd rs => Sys2Proof.Machine.execOr rd rs s
  | .mov rd rs => Sys2Proof.Machine.execMov rd rs s
  | .cmp rd rs => Sys2Proof.Machine.execCmp rd rs s
  | .jmp target => Sys2Proof.Machine.execJmp target s
  | .jz target => Sys2Proof.Machine.execJz target s
  | .jnz target => Sys2Proof.Machine.execJnz target s
  | .addi rd imm => Sys2Proof.Machine.execAddi rd imm s
  | .call target => Sys2Proof.Machine.execCall target s
  | .hlt => Sys2Proof.Machine.execHlt s
  | .nop => Sys2Proof.Machine.execNop s
  | .cli => Sys2Proof.Machine.execCli s
  | .sti => Sys2Proof.Machine.execSti s
  | .rti => Sys2Proof.Machine.execRti s
  | .push rd => Sys2Proof.Machine.execPush rd s
  | .pop rd => Sys2Proof.Machine.execPop rd s
  | .ret => Sys2Proof.Machine.execRet s
  | .swi n => Sys2Proof.Machine.execSwi n s
  | .reserved0B => Sys2Proof.Machine.execReserved0B s
  | .reserved0F => Sys2Proof.Machine.execReserved0F s

end Sys2Proof.Machine
end

