-- ==== Sys2Proof/Machine/HostSide.lean ====
section
/-! DEFINITION. What the host does to the machine between two iterations of the driver loop
(`60_exceptions.md` rules R215, R216, R222 to R226, `70_reset_and_hazards.md` rule R240). -/

namespace Sys2Proof.Machine

/-- `load_program(bytes, addr)`: bus writes to consecutive addresses (R223). -/
def State.hostLoad (s : State) : List Byte → Addr → State
  | [], _ => s
  | b :: bytes, a => State.hostLoad (s.memWrite a b) bytes (a + 1#16)

/-- `HostPushRx(b)`: append a received byte and raise interrupt 2 (R215). -/
def State.hostPushRx (s : State) (b : Byte) : State :=
  (s.setUart (s.uart.pushRx b)).raiseInterrupt Config.uartIrq

/-- `HostDrainTx()`: the bytes sent, oldest first, and the state with the queue empty (R216). -/
def State.hostDrainTx (s : State) : List Byte × State :=
  (s.uart.tx, s.setUart { s.uart with tx := [] })

/-- `Reset()` of a running machine (R38, R240): pc, sp, halted, IE and pend as the spec says; registers, RAM
and devices unchanged. The flags and the instruction register are unspecified afterwards: free values, drawn
afresh at every reset (R39, decision D2). -/
def State.hostReset (s : State) : State :=
  { s with
    pc := Config.pcReset
    sp := Config.spReset
    halted := false
    ie := false
    pend := 0x00
    z := (Config.flagsAfterReset s.resets).1
    c := (Config.flagsAfterReset s.resets).2
    ir := ⟨Config.irAfterReset s.resets 0, Config.irAfterReset s.resets 1, Config.irAfterReset s.resets 2⟩
    resets := s.resets + 1 }

/-- One host action (R222). -/
def State.hostAct (s : State) (h : HostAction) : State :=
  match h with
  | .load bytes addr => s.hostLoad bytes addr
  | .pushRx b => s.hostPushRx b
  | .drainTx => s.hostDrainTx.2.setHostOut (s.hostOut ++ s.hostDrainTx.1)
  | .raiseLine n => s.raiseInterrupt n
  | .reset => s.hostReset
  | .busRead addr => (s.memRead addr).2

/-- Host actions, in order. -/
def State.hostActs (s : State) : List HostAction → State
  | [] => s
  | h :: hs => State.hostActs (s.hostAct h) hs

/-- The host's turn before an iteration: it carries out, in order, what its schedule lists next (R222,
decision D19). -/
def State.hostTurn (s : State) : State :=
  match s.hostPlan with
  | [] => s
  | acts :: plan => (s.setHostPlan plan).hostActs acts

end Sys2Proof.Machine
end

