-- ==== Sys2Proof/Machine/Cycle.lean ====
section
/-! DEFINITION. The CPU's step (`30_encoding.md` rules R97 and R98), the driver loop (`60_exceptions.md` rules
R220 and R221), and how an instruction is put where the next fetch reads it. -/

namespace Sys2Proof.Machine

/-- The CPU's `Step()` (R97): halted beats everything, a dispatchable interrupt beats the fetch, else one
instruction is fetched and executed. -/
def cpuStep (s : State) : Host.Outcome State Fault Refusal :=
  if s.halted then .next s
  else
    match s.dispatchable with
    | some n => .next (s.takeInterrupt n)
    | none => exec s.fetch.decoded s.fetch

/-- The top level's `step()` (R221, decision D18): a timer tick, then a CPU step, without the halted test. -/
def topStep (s : State) : Host.Outcome State Fault Refusal := cpuStep s.timerTick

/-- One turn of the driver loop's body under its halted test (R220): once the CPU has halted, no tick and no
step happen. -/
def loopBody (s : State) : Host.Outcome State Fault Refusal :=
  if s.halted then .next s else topStep s

/-- `Run(max_cycles)` (R220): at most that many iterations, stopping at a halt. -/
def runLoop : Nat → State → Host.Outcome State Fault Refusal
  | 0, s => .next s
  | n + 1, s =>
    if s.halted then .next s
    else
      match topStep s with
      | .next t => runLoop n t
      | .fault r => .fault r
      | .refused r => .refused r

/-- One cycle with the host: its scheduled actions (R222), then one turn of the loop (log entry 6). -/
def hostedCycle (s : State) : Host.Outcome State Fault Refusal := loopBody s.hostTurn

/-- Whether the next cycle fetches from RAM at `pc` with nothing before it: no scheduled host action, not
halted, no interrupt due after the tick, and three RAM bytes at `pc`. -/
def State.fetchesNext (s : State) : Bool :=
  (s.hostPlan.headD []).isEmpty && !s.halted && s.timerTick.dispatchable.isNone
    && decide (s.pc.toNat + 2 ≤ Config.ramLast)

/-- `s` changed so that the next cycle fetches from RAM: an idle host turn, not halted, interrupts off, and
`pc` at the reset entry when it does not point to three RAM bytes. -/
def State.readyToFetch (s : State) : State :=
  { s with
    hostPlan := [] :: s.hostPlan
    halted := false
    ie := false
    pc := if s.pc.toNat + 2 ≤ Config.ramLast then s.pc else Config.pcReset }

/-- `s` with the instruction word's three bytes stored at `pc`, where the next cycle fetches; nothing else
changes when that cycle fetches there already. -/
def State.placeWord (s : State) (w : Nat) : State :=
  let s1 := if s.fetchesNext then s else s.readyToFetch
  s1.hostLoad (wordBytes w) s1.pc

end Sys2Proof.Machine
end

