-- ==== Sys2Proof/Machine/Step.lean ====
section
/-! DEFINITION. The model's step: one cycle of the driver loop, with the host's turn before it. -/

namespace Sys2Proof.Machine

/-- One step of the whole machine (R6, R220, R222; log entry 6). -/
def step : State → Host.Outcome State Fault Refusal := hostedCycle

/-- `s` with an instruction word stored where `step` fetches its next instruction, so that the very next step
runs it (log entry 8). -/
def State.withFetchWord (s : State) (nbits w : Nat) : State := s.placeWord (w % 2 ^ nbits)

end Sys2Proof.Machine
end

