-- ==== Sys2Proof/Machine/Gates.lean ====
section
/-! DEFINITION. The combinational blocks at gate level: gates, adders, the ALU's structure, decoder and
multiplexers (`41_alu.md` rules R130 to R135, `30_encoding.md` rules R114 and R115). The functional view is
normative (R52); the step does not use this file, and statements relate the two views. -/

namespace Sys2Proof.Machine

/-- An ordered sequence of bits, bit 0 first (R8). -/
abbrev Bits := List Bool

/-- The bits of a vector, bit 0 first. -/
def bitsOf {n : Nat} (v : BitVec n) : Bits := (List.range n).map (fun i => v.getLsbD i)

/-- The unsigned value of a bit sequence. -/
def bitsToNat : Bits → Nat
  | [] => 0
  | b :: bs => b.toNat + 2 * bitsToNat bs

/-- NOT (R130). -/
def gateNot (x : Bool) : Bool := !x
/-- AND (R130). -/
def gateAnd (x y : Bool) : Bool := x && y
/-- OR (R130). -/
def gateOr (x y : Bool) : Bool := x || y
/-- NAND (R130). -/
def gateNand (x y : Bool) : Bool := gateNot (gateAnd x y)
/-- NOR (R130). -/
def gateNor (x y : Bool) : Bool := gateNot (gateOr x y)
/-- XOR (R130), composed of the gates above. -/
def gateXor (x y : Bool) : Bool := gateAnd (gateOr x y) (gateNand x y)

/-- Half adder (R131): (sum, carry). -/
def halfAdder (x y : Bool) : Bool × Bool := (gateXor x y, gateAnd x y)

/-- Full adder (R132): two half adders with an OR of carries. -/
def fullAdder (x y cin : Bool) : Bool × Bool :=
  let h1 := halfAdder x y
  let h2 := halfAdder h1.1 cin
  (h2.1, gateOr h1.2 h2.2)

/-- N-bit ripple-carry adder (R133): the sum's bits and the carry-out. N is the common length. -/
def rippleAdder : Bits → Bits → Bool → Bits × Bool
  | x :: xs, y :: ys, cin =>
    let f := fullAdder x y cin
    let rest := rippleAdder xs ys f.2
    (f.1 :: rest.1, rest.2)
  | _, _, cin => ([], cin)

/-- Mux2 (R115): the first input when the selector is 0, the second when it is 1, bit by bit. -/
def mux2 (sel : Bool) (d0 d1 : Bits) : Bits :=
  List.zipWith (fun x y => gateOr (gateAnd (gateNot sel) x) (gateAnd sel y)) d0 d1

/-- Mux4 (R115): three Mux2s on a 2-bit selector, `s0` its bit 0. -/
def mux4 (s1 s0 : Bool) (d0 d1 d2 d3 : Bits) : Bits :=
  mux2 s1 (mux2 s0 d0 d1) (mux2 s0 d2 d3)

/-- The AND of an address's literals that is 1 exactly at address `k`. -/
def minterm : Bits → Nat → Bool
  | [], _ => true
  | b :: bs, k => gateAnd (if k % 2 = 1 then b else gateNot b) (minterm bs (k / 2))

/-- Decoder N→2ᴺ with a global enable (R114): output `k` of the list is line `k`. -/
def decoder (addr : Bits) (enable : Bool) : Bits :=
  (List.range (2 ^ addr.length)).map (fun k => gateAnd enable (minterm addr k))

/-- The ALU's structure for any N (R134, R135): (result, carry, zero). SUB inverts B with `op0` and feeds `op0`
to the carry-in; the logic path runs in parallel and `op1` selects. -/
def aluGates (op1 op0 : Bool) (a b : Bits) : Bits × Bool × Bool :=
  let b' := b.map (fun y => gateXor y op0)
  let arith := rippleAdder a b' op0
  let logic := mux2 op0 (List.zipWith gateAnd a b) (List.zipWith gateOr a b)
  let result := mux2 op1 arith.1 logic
  (result, gateAnd arith.2 (gateNot op1), gateNot (result.foldr gateOr false))

end Sys2Proof.Machine
end

