-- ==== Sys2Proof/Machine/Datapath.lean ====
section
/-! DEFINITION. The control unit and the datapath template (`30_encoding.md` rules R100 to R105). The
instructions' own rules "must agree with it" (R101); the meanings are written from those rules, and a
statement relates them to this file. -/

namespace Sys2Proof.Machine

/-- The control unit's twelve outputs (R102). -/
structure Signals where
  regWrite : Bool
  memRead : Bool
  memWrite : Bool
  aluOp1 : Bool
  aluOp0 : Bool
  aluSrcImm : Bool
  regSrcMem : Bool
  regSrcImm : Bool
  isMov : Bool
  pcJump : Bool
  flagsWrite : Bool
  halt : Bool
deriving DecidableEq, Repr

/-- Every output 0. -/
def Signals.none : Signals :=
  ⟨false, false, false, false, false, false, false, false, false, false, false, false⟩

/-- The control unit (R102, R103): a 4→16 decoder over the opcode, each signal an OR of the lines that need
it; the zero flag enters `pc_jump` alone. -/
def controlUnit (opcode : BitVec 4) (zero : Bool) : Signals :=
  let line := fun k => (decoder (bitsOf opcode) true).getD k false
  { regWrite := line 0x1 || line 0x2 || line 0x4 || line 0x5 || line 0x6 || line 0x7 || line 0x8 || line 0xD
    memRead := line 0x2
    memWrite := line 0x3
    aluOp1 := line 0x6 || line 0x7
    aluOp0 := line 0x5 || line 0x7 || line 0x9
    aluSrcImm := line 0xD
    regSrcMem := line 0x2
    regSrcImm := line 0x1
    isMov := line 0x8
    pcJump := line 0xA || (line 0xB && zero) || (line 0xC && !zero)
    flagsWrite := line 0x4 || line 0x5 || line 0x6 || line 0x7 || line 0x9 || line 0xD
    halt := line 0xF }

/-- The writeback multiplexer: memory > immediate > mov > ALU (R104). -/
def writeback (sig : Signals) (memData imm b aluResult : Byte) : Byte :=
  if sig.regSrcMem then memData
  else if sig.regSrcImm then imm
  else if sig.isMov then b
  else aluResult

/-- The datapath under given signals, reading the instruction's fields from the instruction register
(R105, in the order of R116). Without `mem_read` there is no memory data; the 0x00 that stands for it here
is selected by no opcode of the control unit (R104). -/
def datapath (sig : Signals) (s : State) : State :=
  let rd := Reg.ofSel (rdField s.ir.b2)
  let a := s.reg rd
  let b := s.reg (Reg.ofSel (rsField s.ir.b2))
  let imm16 := imm16Field s.ir.b0 s.ir.b1
  let out := alu (AluOp.ofBits sig.aluOp1 sig.aluOp0) a (if sig.aluSrcImm then s.ir.b0 else b)
  let m := if sig.memRead then s.memRead imm16 else (0x00#8, s)
  let s1 := if sig.memWrite then m.2.memWrite imm16 a else m.2
  let s2 := if sig.regWrite then s1.setReg rd (writeback sig m.1 s.ir.b0 b out.result) else s1
  let s3 := if sig.flagsWrite then s2.latchFlags out else s2
  let s4 := if sig.pcJump then s3.setPc imm16 else s3
  if sig.halt then s4.setHalted true else s4

/-- Decode and execute of an opcode that goes through the control unit: the signals come from the opcode and
the flag as it stands before the instruction (R100, R101). -/
def executeDatapath (s : State) : State :=
  datapath (controlUnit (opcodeField s.ir.b2) s.z) s

end Sys2Proof.Machine
end

