-- ==== Sys2Proof/Machine/Sequential.lean ====
section
/-! DEFINITION. The sequential primitives and the blocks built from them (`10_state.md` rules R42 to R51). The
functional view is normative (R52); the step does not use this file, and statements relate the two views. -/

namespace Sys2Proof.Machine

/-- One relaxation pass of a cross-coupled NOR pair `(q, qn)` (R42). -/
def norPass (set reset : Bool) (p : Bool × Bool) : Bool × Bool :=
  let q := gateNor reset p.2
  (q, gateNor set q)

/-- SR latch (R42) that stores `q`: three passes; the invalid input gives a free value (U2). -/
def srLatch (set reset q : Bool) : Bool :=
  if set && reset then Config.srInvalid q
  else (norPass set reset (norPass set reset (norPass set reset (q, gateNot q)))).1

/-- D latch (R43): transparent while `enable` is asserted. -/
def dLatch (enable d q : Bool) : Bool :=
  srLatch (gateAnd enable d) (gateAnd enable (gateNot d)) q

/-- D flip-flop (R44): a master-slave pair of D latches; the slave is the output. -/
structure DFlipFlop where
  master : Bool
  slave : Bool
deriving DecidableEq, Repr

/-- `clock(clk, d)` (R44): the master is open while the clock is low, the slave while it is high. -/
def dffClock (ff : DFlipFlop) (clk d : Bool) : DFlipFlop :=
  let m := dLatch (gateNot clk) d ff.master
  ⟨m, dLatch clk m ff.slave⟩

/-- A rising edge: `clk = 0`, then `clk = 1`, with the same data (R44). -/
def dffEdge (ff : DFlipFlop) (d : Bool) : DFlipFlop := dffClock (dffClock ff false d) true d

/-- An N-bit register (R45): N flip-flops sharing a clock. -/
abbrev RegisterN := List DFlipFlop

/-- The stored value, readable at any time (R51). -/
def registerValue (r : RegisterN) : Bits := r.map (fun ff => ff.slave)

/-- A register that stores `v`. -/
def registerOf (v : Bits) : RegisterN := v.map (fun b => ⟨b, b⟩)

/-- `clock(clk, load, data_in)` (R45): with load low, each bit feeds its own output back in. -/
def registerClock (r : RegisterN) (clk load : Bool) (data : Bits) : RegisterN :=
  List.zipWith (fun ff d => dffClock ff clk d) r (mux2 load (registerValue r) data)

/-- A rising edge of a register (R44, R45). -/
def registerEdge (r : RegisterN) (load : Bool) (data : Bits) : RegisterN :=
  registerClock (registerClock r false load data) true load data

/-- The next bits of a counter whose lower bits are all 1 exactly when `carry` (R46). -/
def counterToggle : Bool → Bits → Bits
  | _, [] => []
  | carry, b :: bs => gateXor b carry :: counterToggle (gateAnd carry b) bs

/-- Binary counter on a rising edge (R46): bit `i` toggles when `enable` and all lower bits are 1. That the
synchronous reset wins over the enable is from general knowledge (G2, log entry 19). -/
def counterEdge (reset enable : Bool) (value : Bits) : Bits :=
  mux2 reset (counterToggle enable value) (value.map (fun _ => false))

/-- The program counter on a rising edge (R48): a 16-bit adder gives `value + 3`, a mux picks that sum or the
jump address, and reset forces 0. -/
def pcEdge (reset jump : Bool) (jumpAddr value : Bits) : Bits :=
  mux2 reset (mux2 jump (rippleAdder value (bitsOf Config.pcStep) false).1 jumpAddr)
    (value.map (fun _ => false))

/-- The four registers of the register file (R47). -/
structure RegBank where
  q0 : RegisterN
  q1 : RegisterN
  q2 : RegisterN
  q3 : RegisterN
deriving DecidableEq, Repr

/-- One read port: a Mux4 over the four values (R47). -/
def bankRead (b : RegBank) (s1 s0 : Bool) : Bits :=
  mux4 s1 s0 (registerValue b.q0) (registerValue b.q1) (registerValue b.q2) (registerValue b.q3)

/-- A rising edge of the write port (R47): a one-hot decoder gated by `writeEn` drives the load enables, and
every register receives the clock. -/
def bankWrite (b : RegBank) (s1 s0 writeEn : Bool) (data : Bits) : RegBank :=
  let line := decoder [s0, s1] writeEn
  ⟨registerEdge b.q0 (line.getD 0 false) data, registerEdge b.q1 (line.getD 1 false) data,
    registerEdge b.q2 (line.getD 2 false) data, registerEdge b.q3 (line.getD 3 false) data⟩

/-- The register file's contents as a bank of registers. -/
def bankOf (x : RegFile) : RegBank :=
  ⟨registerOf (bitsOf x.r0), registerOf (bitsOf x.r1), registerOf (bitsOf x.r2), registerOf (bitsOf x.r3)⟩

/-- The flags register on a rising edge (R50): two flip-flops behind a load-enable mux, (carry, zero). -/
def flagsEdge (r : RegisterN) (load carry zero : Bool) : RegisterN := registerEdge r load [carry, zero]

/-- The instruction register (R33, R49): three 8-bit registers. -/
structure IrBank where
  b0 : RegisterN
  b1 : RegisterN
  b2 : RegisterN
deriving DecidableEq, Repr

/-- The fetch's three loads, one byte and one rising edge each, in order (R33, R49). -/
def irLoad (r : IrBank) (v0 v1 v2 : Bits) : IrBank :=
  let r0 : IrBank := { r with b0 := registerEdge r.b0 true v0 }
  let r1 : IrBank := { r0 with b1 := registerEdge r0.b1 true v1 }
  { r1 with b2 := registerEdge r1.b2 true v2 }

end Sys2Proof.Machine
end

