-- ==== Sys2Proof/WellFormed.lean ====
section
/-! DEFINITION. Which terms of `Instr` are instructions of the machine. -/

namespace Sys2Proof

/-- An instruction is well formed when it is one of the 23 of rules R95 and R96. Operand ranges need no
check, since a register is one of four names and an immediate has its field's width (R3, R93), so the two
checks are that it is neither of the reserved encodings of rule R108. -/
def Instr.wellFormed : Instr → Bool
  | .reserved0B => false
  | .reserved0F => false
  | .ldi _ _ | .ld _ _ | .st _ _ | .add _ _ | .sub _ _ | .and _ _ | .or _ _ | .mov _ _ | .cmp _ _
  | .jmp _ | .jz _ | .jnz _ | .addi _ _ | .call _ | .hlt | .nop | .cli | .sti | .rti
  | .push _ | .pop _ | .ret | .swi _ => true

end Sys2Proof
end

