-- ==== Sys2Proof/Safety.lean ====
section
/-! DEFINITION. The words the statements use: what a state keeps, the invariant, and what a safe run is. -/

namespace Sys2Proof.Machine

/-- The invariant of the model: RAM is in its one canonical form (`20_memory.md` rules R63 and R64). -/
def State.inv (s : State) : Bool := s.ram.wf

/-- The outcome is a next state in the invariant, or the refusal of a reserved encoding: never a fault and
never an instruction without a meaning. -/
def SafeOutcome (o : Host.Outcome State Fault Refusal) : Prop :=
  (∃ t, o = .next t ∧ t.inv = true) ∨ o = .refused .reservedEncoding0B ∨ o = .refused .reservedEncoding0F

/-- A state that `n` steps reach from `s`. -/
def Reaches : Nat → State → State → Prop
  | 0, s, t => t = s
  | n + 1, s, t => ∃ u, step s = .next u ∧ Reaches n u t

/-- A safe run: every step of it has a safe outcome. -/
def SafeRun (s : State) : Prop := ∀ n t, Reaches n s t → SafeOutcome (step t)

/-- Every general register but `r` keeps its value. -/
def RegsKeptBut (r : Reg) (s t : State) : Prop := ∀ q, q ≠ r → t.reg q = s.reg q

/-- Every general register keeps its value. -/
def RegsKept (s t : State) : Prop := ∀ q, t.reg q = s.reg q

/-- Both flags keep their values. -/
def FlagsKept (s t : State) : Prop := t.z = s.z ∧ t.c = s.c

/-- The interrupt enable, the pending mask and the halt flag keep their values. -/
def InterruptStateKept (s t : State) : Prop := t.ie = s.ie ∧ t.pend = s.pend ∧ t.halted = s.halted

/-- The program counter and the stack pointer keep their values. -/
def PointersKept (s t : State) : Prop := t.pc = s.pc ∧ t.sp = s.sp

/-- Both devices keep their state. -/
def DevicesKept (s t : State) : Prop := t.tmr = s.tmr ∧ t.uart = s.uart

/-- The instruction register and the host's side keep their values. -/
def OutsideKept (s t : State) : Prop :=
  t.ir = s.ir ∧ t.hostPlan = s.hostPlan ∧ t.hostOut = s.hostOut ∧ t.resets = s.resets

/-- Every address reads as before. -/
def BytesKept (s t : State) : Prop := ∀ a, t.byteAt a = s.byteAt a

/-- Every RAM address outside `stored` reads as before. -/
def RamKeptOutside (stored : List Addr) (s t : State) : Prop :=
  ∀ a : Addr, a.toNat ≤ Config.ramLast → a ∉ stored → t.byteAt a = s.byteAt a

end Sys2Proof.Machine
end

