-- ==== Sys2Proof/Certificates/Slice0/Obligations.lean ====
section
/-! DEFINITION. The statements about the model, each with the rule of `spec/` it formalises. In a statement
about one instruction, `s` is the state after the fetch (`pc` already advanced, R99). -/

open Sys2Proof Sys2Proof.Machine

/-! ## Encoding -/

/-- Words written out bit by bit from the encodings of `30_encoding.md` sections 1 and 2, one per format and
family, decode to the instructions they stand for. -/
def Obligations.SampleWordsDecode : Prop :=
  decodeTableWord 24 0b000101000000000000000101 = some (.ldi .r1 5#8) ∧
  decodeTableWord 24 0b001001000001000000000000 = some (.ld .r1 0x1000#16) ∧
  decodeTableWord 24 0b010110110000000000000000 = some (.sub .r2 .r3) ∧
  decodeTableWord 24 0b101100000000000000001111 = some (.jz 0x000F#16) ∧
  decodeTableWord 24 0b000001100000000000000000 = some (.pop .r1) ∧
  decodeTableWord 24 0b000001110000000000000010 = some (.swi 2#8) ∧
  decodeTableWord 24 0b111100000000000000000000 = some .hlt

/-- Decoding an encoded instruction gives it back and leaves the bytes after it, for every instruction with
every operand its encoding admits, the reserved encodings included (`30_encoding.md` sections 1 and 2). -/
def Obligations.DecodeEncodeRoundTrip : Prop :=
  ∀ (i : Instr) (rest : List Byte), decode (encode i ++ rest) = .ok (i, rest)

/-- Byte 2 alone selects the instruction, and the fields an instruction does not use are ignored
(`30_encoding.md` section 5, the spec's own derivation): the constructor is the same whatever bytes 0 and 1 hold,
exactly 0x0B and 0x0F are reserved, and each format's ignored fields may hold anything. -/
def Obligations.UnusedFieldsAreIgnored : Prop :=
  (∀ b0 b1 c0 c1 b2, (decodeBytes b0 b1 b2).ctorIdx = (decodeBytes c0 c1 b2).ctorIdx) ∧
  (∀ b0 b1 b2, (decodeBytes b0 b1 b2).wellFormed = false ↔ b2 = 0x0B#8 ∨ b2 = 0x0F#8) ∧
  (∀ b0 b1 op rd rs, op ∈ [0x4#4, 0x5#4, 0x6#4, 0x7#4, 0x8#4, 0x9#4] →
    decodeBytes b0 b1 (byte2 op rd rs) = decodeBytes 0 0 (byte2 op rd rs)) ∧
  (∀ b0 b1 op rd rs, op ∈ [0x1#4, 0xD#4] →
    decodeBytes b0 b1 (byte2 op rd rs) = decodeBytes b0 0 (byte2 op rd 0)) ∧
  (∀ b0 b1 op rd rs, op ∈ [0x2#4, 0x3#4] →
    decodeBytes b0 b1 (byte2 op rd rs) = decodeBytes b0 b1 (byte2 op rd 0)) ∧
  (∀ b0 b1 op rd rs, op ∈ [0xA#4, 0xB#4, 0xC#4, 0xE#4] →
    decodeBytes b0 b1 (byte2 op rd rs) = decodeBytes b0 b1 (byte2 op 0 0)) ∧
  (∀ b0 b1 rd rs, decodeBytes b0 b1 (byte2 0xF#4 rd rs) = decodeBytes 0 0 (byte2 0xF#4 0 0)) ∧
  (∀ b0 b1 rd rs, rs ≠ 3#2 ∨ rd = 0#2 →
    decodeBytes b0 b1 (byte2 0x0#4 rd rs) = decodeBytes 0 0 (byte2 0x0#4 rd rs)) ∧
  (∀ b0 b1, decodeBytes b0 b1 0x07#8 = decodeBytes b0 0 0x07#8)

/-! ## The step -/

/-- When the host plans nothing, the CPU runs and no interrupt is due after the timer's tick, a step executes
the instruction that the three bytes read at `pc` decode to, on the state after the fetch (`30_encoding.md`
section 3): the instruction register holds those bytes and `pc` has advanced by 3. Two clauses are choices: the
tick comes first (the model's step, log entry 6), and the three reads are made in ascending order with their side
effects (the spec's decision D17, log entry 11). -/
def Obligations.StepRunsDecodedInstruction : Prop :=
  ∀ (s : State) (i : Instr), s.hostPlan = [] → s.halted = false → s.timerTick.dispatchable = none →
    let u := s.timerTick
    let r0 := u.memRead u.pc
    let r1 := r0.2.memRead (u.pc + 1#16)
    let r2 := r1.2.memRead (u.pc + 2#16)
    decode [r0.1, r1.1, r2.1] = .ok (i, []) → i.wellFormed = true →
      step s = exec i ((r2.2.setIr ⟨r0.1, r1.1, r2.1⟩).setPc (s.pc + 3#16))

/-- A step that starts with `IE = 1` and something pending clears the lowest pending bit and enters that
number's handler, without a fetch (R184). -/
def Obligations.DispatchTakesLowestPending : Prop :=
  ∀ s : State, s.halted = false → s.ie = true → s.pend ≠ 0#8 →
    ∃ n, n < 8 ∧ s.pend.getLsbD n = true ∧ (∀ m, m < n → s.pend.getLsbD m = false) ∧
      ∃ p : BitVec 8, p.getLsbD n = false ∧ (∀ m, m ≠ n → p.getLsbD m = s.pend.getLsbD m) ∧
        cpuStep s = .next ((s.setPend p).enterInterrupt (BitVec.ofNat 8 n))

/-- The halt flag: while it is set a CPU step does nothing; among the instructions only HLT sets it and none
clears it; a step leaves the halted state only when the host resets (R32). -/
def Obligations.HaltIsLeftOnlyByReset : Prop :=
  (∀ s : State, s.halted = true → cpuStep s = .next s) ∧
  (∀ s : State, ∃ t, exec .hlt s = .next t ∧ t.halted = true) ∧
  (∀ (i : Instr) (s t : State), i ≠ .hlt → exec i s = .next t → t.halted = s.halted) ∧
  (∀ s : State, s.hostReset.halted = false) ∧
  (∀ s t : State, s.halted = true → step s = .next t → t.halted = false →
    ∃ acts plan, s.hostPlan = acts :: plan ∧ HostAction.reset ∈ acts)

/-! ## Data movement -/

/-- LDI (R120): encoding, control signals, and the effect with its frame. -/
def Obligations.LdiLoadsImmediate : Prop :=
  (∀ b0 b1 (rd : Reg) rs, decodeBytes b0 b1 (byte2 0x1#4 rd.sel rs) = .ldi rd b0) ∧
  (∀ z, controlUnit 0x1#4 z = { Signals.none with regWrite := true, regSrcImm := true }) ∧
  ∀ rd imm s, ∃ t, exec (.ldi rd imm) s = .next t ∧ t.reg rd = imm ∧ RegsKeptBut rd s t ∧ FlagsKept s t ∧
    PointersKept s t ∧ InterruptStateKept s t ∧ DevicesKept s t ∧ OutsideKept s t ∧ BytesKept s t

/-- LD (R121): the register gets the byte the bus reads; RAM and the timer keep their state; only 0xF002
dequeues a received byte, and unmapped I/O reads 0x00. -/
def Obligations.LdReadsTheBus : Prop :=
  (∀ b0 b1 (rd : Reg) rs, decodeBytes b0 b1 (byte2 0x2#4 rd.sel rs) = .ld rd (imm16Field b0 b1)) ∧
  (∀ z, controlUnit 0x2#4 z = { Signals.none with regWrite := true, memRead := true, regSrcMem := true }) ∧
  ∀ rd (a : Addr) s, ∃ t, exec (.ld rd a) s = .next t ∧ t.reg rd = s.byteAt a ∧
    (a.toNat ≤ 0xEFFF → t.reg rd = s.ram.read a.toNat) ∧
    (a = 0xF000#16 → t.reg rd = s.tmr.read0) ∧
    (a = 0xF001#16 → t.reg rd = s.tmr.read1) ∧
    (a = 0xF002#16 → t.reg rd = s.uart.rx.headD 0x00#8 ∧ t.uart = ⟨s.uart.rx.tail, s.uart.tx⟩) ∧
    (a = 0xF003#16 → t.reg rd = s.uart.readStatus) ∧
    (0xF004 ≤ a.toNat → t.reg rd = 0x00#8) ∧
    (a ≠ 0xF002#16 → t.uart = s.uart ∧ BytesKept s t) ∧
    RamKeptOutside [] s t ∧ t.tmr = s.tmr ∧ RegsKeptBut rd s t ∧ FlagsKept s t ∧
    PointersKept s t ∧ InterruptStateKept s t ∧ OutsideKept s t

/-- ST (R122): one bus write of the register the `rd` field names; every other address reads as before. -/
def Obligations.StWritesTheBus : Prop :=
  (∀ b0 b1 (rd : Reg) rs, decodeBytes b0 b1 (byte2 0x3#4 rd.sel rs) = .st (imm16Field b0 b1) rd) ∧
  (∀ z, controlUnit 0x3#4 z = { Signals.none with memWrite := true }) ∧
  ∀ rd (a : Addr) s, ∃ t, exec (.st a rd) s = .next t ∧
    (a.toNat ≤ 0xEFFF → t.byteAt a = s.reg rd ∧ DevicesKept s t) ∧
    (a = 0xF000#16 → t.tmr = s.tmr.write0 (s.reg rd) ∧ t.uart = s.uart) ∧
    (a = 0xF001#16 → t.tmr = s.tmr.write1 (s.reg rd) ∧ t.uart = s.uart) ∧
    (a = 0xF002#16 → t.tmr = s.tmr ∧ t.uart = ⟨s.uart.rx, s.uart.tx ++ [s.reg rd]⟩) ∧
    (0xF003 ≤ a.toNat → DevicesKept s t ∧ BytesKept s t) ∧
    (∀ b, b ≠ a → t.byteAt b = s.byteAt b) ∧
    RegsKept s t ∧ FlagsKept s t ∧ PointersKept s t ∧ InterruptStateKept s t ∧ OutsideKept s t

/-- MOV (R123). -/
def Obligations.MovCopiesRegister : Prop :=
  (∀ b0 b1 (rd rs : Reg), decodeBytes b0 b1 (byte2 0x8#4 rd.sel rs.sel) = .mov rd rs) ∧
  (∀ z, controlUnit 0x8#4 z = { Signals.none with regWrite := true, isMov := true }) ∧
  ∀ rd rs s, ∃ t, exec (.mov rd rs) s = .next t ∧ t.reg rd = s.reg rs ∧ RegsKeptBut rd s t ∧ FlagsKept s t ∧
    PointersKept s t ∧ InterruptStateKept s t ∧ DevicesKept s t ∧ OutsideKept s t ∧ BytesKept s t

/-! ## Arithmetic and logic -/

/-- ADD (R140): the wrapped sum, C on a carry out of bit 7, Z on a zero result. -/
def Obligations.AddWritesSumAndFlags : Prop :=
  (∀ b0 b1 (rd rs : Reg), decodeBytes b0 b1 (byte2 0x4#4 rd.sel rs.sel) = .add rd rs) ∧
  (∀ z, controlUnit 0x4#4 z = { Signals.none with regWrite := true, flagsWrite := true }) ∧
  ∀ rd rs s, ∃ t, exec (.add rd rs) s = .next t ∧ t.reg rd = s.reg rd + s.reg rs ∧
    (t.c = true ↔ 256 ≤ (s.reg rd).toNat + (s.reg rs).toNat) ∧ (t.z = true ↔ t.reg rd = 0x00#8) ∧
    RegsKeptBut rd s t ∧ PointersKept s t ∧ InterruptStateKept s t ∧ DevicesKept s t ∧ OutsideKept s t ∧
    BytesKept s t

/-- SUB (R141): the wrapped difference, C exactly when there is no borrow, Z exactly when the operands are
equal. -/
def Obligations.SubWritesDifferenceAndFlags : Prop :=
  (∀ b0 b1 (rd rs : Reg), decodeBytes b0 b1 (byte2 0x5#4 rd.sel rs.sel) = .sub rd rs) ∧
  (∀ z, controlUnit 0x5#4 z = { Signals.none with regWrite := true, aluOp0 := true, flagsWrite := true }) ∧
  ∀ rd rs s, ∃ t, exec (.sub rd rs) s = .next t ∧ t.reg rd = s.reg rd - s.reg rs ∧
    (t.c = true ↔ (s.reg rs).toNat ≤ (s.reg rd).toNat) ∧ (t.z = true ↔ s.reg rd = s.reg rs) ∧
    RegsKeptBut rd s t ∧ PointersKept s t ∧ InterruptStateKept s t ∧ DevicesKept s t ∧ OutsideKept s t ∧
    BytesKept s t

/-- AND and OR (R142, R143): the bitwise result, C cleared, Z on a zero result. -/
def Obligations.AndOrWriteResultAndClearCarry : Prop :=
  (∀ b0 b1 (rd rs : Reg), decodeBytes b0 b1 (byte2 0x6#4 rd.sel rs.sel) = .and rd rs) ∧
  (∀ b0 b1 (rd rs : Reg), decodeBytes b0 b1 (byte2 0x7#4 rd.sel rs.sel) = .or rd rs) ∧
  (∀ z, controlUnit 0x6#4 z = { Signals.none with regWrite := true, aluOp1 := true, flagsWrite := true }) ∧
  (∀ z, controlUnit 0x7#4 z =
    { Signals.none with regWrite := true, aluOp1 := true, aluOp0 := true, flagsWrite := true }) ∧
  (∀ rd rs s, ∃ t, exec (.and rd rs) s = .next t ∧ t.reg rd = s.reg rd &&& s.reg rs ∧
    t.c = false ∧ (t.z = true ↔ t.reg rd = 0x00#8) ∧
    RegsKeptBut rd s t ∧ PointersKept s t ∧ InterruptStateKept s t ∧ DevicesKept s t ∧ OutsideKept s t ∧
    BytesKept s t) ∧
  ∀ rd rs s, ∃ t, exec (.or rd rs) s = .next t ∧ t.reg rd = s.reg rd ||| s.reg rs ∧
    t.c = false ∧ (t.z = true ↔ s.reg rd = 0x00#8 ∧ s.reg rs = 0x00#8) ∧
    RegsKeptBut rd s t ∧ PointersKept s t ∧ InterruptStateKept s t ∧ DevicesKept s t ∧ OutsideKept s t ∧
    BytesKept s t

/-- CMP (R144): the flags of SUB, and no register written. -/
def Obligations.CmpWritesFlagsOnly : Prop :=
  (∀ b0 b1 (rd rs : Reg), decodeBytes b0 b1 (byte2 0x9#4 rd.sel rs.sel) = .cmp rd rs) ∧
  (∀ z, controlUnit 0x9#4 z = { Signals.none with aluOp0 := true, flagsWrite := true }) ∧
  ∀ rd rs s, ∃ t, exec (.cmp rd rs) s = .next t ∧
    (t.c = true ↔ (s.reg rs).toNat ≤ (s.reg rd).toNat) ∧ (t.z = true ↔ s.reg rd = s.reg rs) ∧
    RegsKept s t ∧ PointersKept s t ∧ InterruptStateKept s t ∧ DevicesKept s t ∧ OutsideKept s t ∧
    BytesKept s t

/-- ADDI (R145): as ADD with the unsigned byte `imm8`. -/
def Obligations.AddiAddsUnsignedByte : Prop :=
  (∀ b0 b1 (rd : Reg) rs, decodeBytes b0 b1 (byte2 0xD#4 rd.sel rs) = .addi rd b0) ∧
  (∀ z, controlUnit 0xD#4 z =
    { Signals.none with regWrite := true, aluSrcImm := true, flagsWrite := true }) ∧
  ∀ rd imm s, ∃ t, exec (.addi rd imm) s = .next t ∧ t.reg rd = s.reg rd + imm ∧
    (t.c = true ↔ 256 ≤ (s.reg rd).toNat + imm.toNat) ∧ (t.z = true ↔ t.reg rd = 0x00#8) ∧
    RegsKeptBut rd s t ∧ PointersKept s t ∧ InterruptStateKept s t ∧ DevicesKept s t ∧ OutsideKept s t ∧
    BytesKept s t

/-! ## Control transfer -/

/-- JMP (R150). -/
def Obligations.JmpLoadsPc : Prop :=
  (∀ b0 b1 rd rs, decodeBytes b0 b1 (byte2 0xA#4 rd rs) = .jmp (imm16Field b0 b1)) ∧
  (∀ z, controlUnit 0xA#4 z = { Signals.none with pcJump := true }) ∧
  ∀ target s, ∃ t, exec (.jmp target) s = .next t ∧ t.pc = target ∧ t.sp = s.sp ∧ RegsKept s t ∧
    FlagsKept s t ∧ InterruptStateKept s t ∧ DevicesKept s t ∧ OutsideKept s t ∧ BytesKept s t

/-- JZ and JNZ (R151, R152): the jump on the zero flag, else the advanced pc. -/
def Obligations.JzJnzTestZeroFlag : Prop :=
  (∀ b0 b1 rd rs, decodeBytes b0 b1 (byte2 0xB#4 rd rs) = .jz (imm16Field b0 b1)) ∧
  (∀ b0 b1 rd rs, decodeBytes b0 b1 (byte2 0xC#4 rd rs) = .jnz (imm16Field b0 b1)) ∧
  (∀ z, controlUnit 0xB#4 z = { Signals.none with pcJump := z }) ∧
  (∀ z, controlUnit 0xC#4 z = { Signals.none with pcJump := !z }) ∧
  (∀ target s, ∃ t, exec (.jz target) s = .next t ∧ (s.z = true → t.pc = target) ∧
    (s.z = false → t.pc = s.pc) ∧ t.sp = s.sp ∧ RegsKept s t ∧
    FlagsKept s t ∧ InterruptStateKept s t ∧ DevicesKept s t ∧ OutsideKept s t ∧ BytesKept s t) ∧
  ∀ target s, ∃ t, exec (.jnz target) s = .next t ∧ (s.z = false → t.pc = target) ∧
    (s.z = true → t.pc = s.pc) ∧ t.sp = s.sp ∧ RegsKept s t ∧
    FlagsKept s t ∧ InterruptStateKept s t ∧ DevicesKept s t ∧ OutsideKept s t ∧ BytesKept s t

/-- CALL (R153): the advanced pc goes to `S-1` (high byte) and `S-2` (low byte), wherever they lie; in RAM, no
other address changes. -/
def Obligations.CallPushesReturnAddress : Prop :=
  (∀ b0 b1 rd rs, decodeBytes b0 b1 (byte2 0xE#4 rd rs) = .call (imm16Field b0 b1)) ∧
  (∀ z, controlUnit 0xE#4 z = Signals.none) ∧
  ∀ target s, ∃ t, exec (.call target) s = .next t ∧ t.pc = target ∧ t.sp = s.sp - 2#16 ∧
    (let w := (s.memWrite (s.sp - 1#16) (hi8 s.pc)).memWrite (s.sp - 2#16) (lo8 s.pc)
     t.ram = w.ram ∧ t.tmr = w.tmr ∧ t.uart = w.uart) ∧
    ((s.sp - 1#16).toNat ≤ 0xEFFF → (s.sp - 2#16).toNat ≤ 0xEFFF →
      t.byteAt (s.sp - 1#16) = hi8 s.pc ∧ t.byteAt (s.sp - 2#16) = lo8 s.pc ∧ DevicesKept s t) ∧
    RamKeptOutside [s.sp - 1#16, s.sp - 2#16] s t ∧
    RegsKept s t ∧ FlagsKept s t ∧ InterruptStateKept s t ∧ OutsideKept s t

/-- RET (R154): the two bytes on top of the stack, low byte first, become the pc. -/
def Obligations.RetPopsReturnAddress : Prop :=
  (∀ b0 b1, decodeBytes b0 b1 0x03#8 = .ret) ∧
  ∀ s, ∃ t, exec .ret s = .next t ∧ t.sp = s.sp + 2#16 ∧
    (let lo := s.memRead s.sp
     let hi := lo.2.memRead (s.sp + 1#16)
     t.pc.toNat = hi.1.toNat * 256 + lo.1.toNat ∧ t.uart = hi.2.uart) ∧
    RamKeptOutside [] s t ∧ t.tmr = s.tmr ∧ RegsKept s t ∧ FlagsKept s t ∧ InterruptStateKept s t ∧
    OutsideKept s t

/-! ## Stack -/

/-- PUSH (R160): one bus write at the new sp, wherever it lies. -/
def Obligations.PushWritesBelowSp : Prop :=
  (∀ b0 b1 (rd : Reg), decodeBytes b0 b1 (byte2 0x0#4 rd.sel 1#2) = .push rd) ∧
  ∀ rd s, ∃ t, exec (.push rd) s = .next t ∧ t.sp = s.sp - 1#16 ∧
    (let w := s.memWrite (s.sp - 1#16) (s.reg rd)
     t.ram = w.ram ∧ t.tmr = w.tmr ∧ t.uart = w.uart) ∧
    ((s.sp - 1#16).toNat ≤ 0xEFFF → t.byteAt (s.sp - 1#16) = s.reg rd ∧ DevicesKept s t) ∧
    (∀ b, b ≠ s.sp - 1#16 → t.byteAt b = s.byteAt b) ∧
    t.pc = s.pc ∧ RegsKept s t ∧ FlagsKept s t ∧ InterruptStateKept s t ∧ OutsideKept s t

/-- POP (R161): one bus read at the old sp; no flag is written. -/
def Obligations.PopReadsAtSp : Prop :=
  (∀ b0 b1 (rd : Reg), decodeBytes b0 b1 (byte2 0x0#4 rd.sel 2#2) = .pop rd) ∧
  ∀ rd s, ∃ t, exec (.pop rd) s = .next t ∧ t.sp = s.sp + 1#16 ∧ t.reg rd = (s.memRead s.sp).1 ∧
    t.uart = (s.memRead s.sp).2.uart ∧
    (s.sp.toNat ≤ 0xEFFF → t.reg rd = s.ram.read s.sp.toNat) ∧ (s.sp ≠ 0xF002#16 → BytesKept s t) ∧
    RamKeptOutside [] s t ∧ t.tmr = s.tmr ∧ t.pc = s.pc ∧ RegsKeptBut rd s t ∧ FlagsKept s t ∧
    InterruptStateKept s t ∧ OutsideKept s t

/-! ## System -/

/-- NOP and HLT (R165, R170): NOP changes nothing, HLT only the halt flag. -/
def Obligations.NopAndHltEffects : Prop :=
  (∀ b0 b1, decodeBytes b0 b1 0x00#8 = .nop) ∧
  (∀ b0 b1 rd rs, decodeBytes b0 b1 (byte2 0xF#4 rd rs) = .hlt) ∧
  (∀ z, controlUnit 0xF#4 z = { Signals.none with halt := true }) ∧
  (∀ s, exec .nop s = .next s) ∧
  ∀ s, ∃ t, exec .hlt s = .next t ∧ t.halted = true ∧ t.ie = s.ie ∧ t.pend = s.pend ∧ PointersKept s t ∧
    RegsKept s t ∧ FlagsKept s t ∧ DevicesKept s t ∧ OutsideKept s t ∧ BytesKept s t

/-- CLI and STI (`44_system.md`): the interrupt enable and nothing else; after CLI the next CPU step fetches; that
the very next CPU step after STI with something pending is the entry is the spec's own derivation (from the order
of the tests in a step, `30_encoding.md` section 3). -/
def Obligations.CliStiSetInterruptEnable : Prop :=
  (∀ b0 b1, decodeBytes b0 b1 0x04#8 = .cli) ∧ (∀ b0 b1, decodeBytes b0 b1 0x08#8 = .sti) ∧
  (∀ s, ∃ t, exec .cli s = .next t ∧ t.ie = false ∧ t.pend = s.pend ∧ t.halted = s.halted ∧
    PointersKept s t ∧ RegsKept s t ∧ FlagsKept s t ∧ DevicesKept s t ∧ OutsideKept s t ∧ BytesKept s t ∧
    (t.halted = false → cpuStep t = exec t.fetch.decoded t.fetch)) ∧
  ∀ s, ∃ t, exec .sti s = .next t ∧ t.ie = true ∧ t.pend = s.pend ∧ t.halted = s.halted ∧
    PointersKept s t ∧ RegsKept s t ∧ FlagsKept s t ∧ DevicesKept s t ∧ OutsideKept s t ∧ BytesKept s t ∧
    (t.halted = false → t.pend ≠ 0#8 → ∃ n, n < 8 ∧ cpuStep t = .next (t.takeInterrupt n))

/-- RTI (R168): three bytes from the stack, the flags byte first; Z, C and IE from its bits 0, 1 and 2. -/
def Obligations.RtiRestoresFlagsAndPc : Prop :=
  (∀ b0 b1, decodeBytes b0 b1 0x0C#8 = .rti) ∧
  ∀ s, ∃ t, exec .rti s = .next t ∧ t.sp = s.sp + 3#16 ∧
    (let f := s.memRead s.sp
     let lo := f.2.memRead (s.sp + 1#16)
     let hi := lo.2.memRead (s.sp + 2#16)
     t.z = f.1.getLsbD 0 ∧ t.c = f.1.getLsbD 1 ∧ t.ie = f.1.getLsbD 2 ∧
     t.pc.toNat = hi.1.toNat * 256 + lo.1.toNat ∧ t.uart = hi.2.uart) ∧
    t.pend = s.pend ∧ t.halted = s.halted ∧ RamKeptOutside [] s t ∧ t.tmr = s.tmr ∧ RegsKept s t ∧
    OutsideKept s t

/-- SWI (R169): pushes pc (high, low) and the packed flags, clears IE, then reads the vector; not gated by IE,
and pend is untouched. -/
def Obligations.SwiEntersHandler : Prop :=
  (∀ b0 b1, decodeBytes b0 b1 0x07#8 = .swi b0) ∧
  ∀ (n : Byte) s, ∃ t, exec (.swi n) s = .next t ∧ t.ie = false ∧ t.sp = s.sp - 3#16 ∧
    (let w := ((s.memWrite (s.sp - 1#16) (hi8 s.pc)).memWrite (s.sp - 2#16) (lo8 s.pc)).memWrite
       (s.sp - 3#16) s.packFlags
     let v := BitVec.ofNat 16 (0xEFF0 + 2 * n.toNat)
     let lo := w.memRead v
     let hi := lo.2.memRead (v + 1#16)
     t.pc.toNat = hi.1.toNat * 256 + lo.1.toNat ∧ t.ram = w.ram ∧ t.tmr = w.tmr ∧ t.uart = hi.2.uart) ∧
    RamKeptOutside [s.sp - 1#16, s.sp - 2#16, s.sp - 3#16] s t ∧
    t.pend = s.pend ∧ t.halted = s.halted ∧ RegsKept s t ∧ FlagsKept s t ∧ OutsideKept s t

/-- The reserved encodings (`30_encoding.md` R108, the spec's decision D12): decoded as such whatever bytes 0
and 1 hold, and refused by name in every state. -/
def Obligations.ReservedEncodingsRefused : Prop :=
  (∀ b0 b1, decodeBytes b0 b1 0x0B#8 = .reserved0B ∧ decodeBytes b0 b1 0x0F#8 = .reserved0F) ∧
  ∀ s, exec .reserved0B s = .refused .reservedEncoding0B ∧ exec .reserved0F s = .refused .reservedEncoding0F

/-! ## The bus, RAM and the devices -/

/-- The bus map (R61, R62, R65): RAM up to 0xEFFF, the four device registers, and unmapped I/O, for reads with
their side effect and for writes. -/
def Obligations.BusRoutesAccesses : Prop :=
  (∀ (s : State) (a : Addr),
    (a.toNat ≤ 0xEFFF → s.memRead a = (s.ram.read a.toNat, s)) ∧
    (a = 0xF000#16 → s.memRead a = (s.tmr.read0, s)) ∧
    (a = 0xF001#16 → s.memRead a = (s.tmr.read1, s)) ∧
    (a = 0xF002#16 → s.memRead a = (s.uart.readData.1, s.setUart s.uart.readData.2)) ∧
    (a = 0xF003#16 → s.memRead a = (s.uart.readStatus, s)) ∧
    (0xF004 ≤ a.toNat → s.memRead a = (0x00#8, s))) ∧
  ∀ (s : State) (a : Addr) (v : Byte),
    (a.toNat ≤ 0xEFFF → s.memWrite a v = s.setRam (s.ram.write a.toNat v)) ∧
    (a = 0xF000#16 → s.memWrite a v = s.setTmr (s.tmr.write0 v)) ∧
    (a = 0xF001#16 → s.memWrite a v = s.setTmr (s.tmr.write1 v)) ∧
    (a = 0xF002#16 → s.memWrite a v = s.setUart (s.uart.writeData v)) ∧
    (0xF003 ≤ a.toNat → s.memWrite a v = s)

/-- A RAM read returns the most recent write to its address, whatever was written elsewhere since
(`20_memory.md` section 1), a write to any address but `a` leaves the byte at RAM address `a` alone, and with no
write to it since power-on it is the open power-on value (the spec's decision D3, log entry 3). -/
def Obligations.RamReadReturnsLatestWrite : Prop :=
  ∀ (s : State) (a : Addr) (v : Byte) (later : List (Addr × Byte)), a.toNat ≤ 0xEFFF →
    (∀ w ∈ later, w.1 ≠ a) →
      (later.foldl (fun t w => t.memWrite w.1 w.2) (s.memWrite a v)).byteAt a = v ∧
      (later.foldl (fun t w => t.memWrite w.1 w.2) s).byteAt a = s.byteAt a ∧
      (later.foldl (fun t w => t.memWrite w.1 w.2) State.reset).byteAt a = Config.ramInit a.toNat

/-- The timer's registers and the UART's status (`60_exceptions.md` sections 4 and 5, the spec's decisions D5 to
D7 and D11): a write of register 0 sets reload and counter alone; a write of register 1 sets enable from bit 1
and acknowledges; register 0 reads the reload value, register 1 fired and enable; the status reads 3 when a byte
waits, else 2. -/
def Obligations.DeviceRegisterValues : Prop :=
  (∀ (t : Timer) (v : Byte),
    t.write0 v = ⟨v, v, t.enable, t.fired⟩ ∧ t.write1 v = ⟨t.reload, t.counter, v.getLsbD 1, false⟩ ∧
    t.read0 = t.reload ∧ t.read1.toNat = t.fired.toNat + 2 * t.enable.toNat) ∧
  ∀ u : Uart, u.readStatus.toNat = if u.rx = [] then 2 else 3

/-- The UART's data register (R211, R212): a write appends to the transmit queue; a read dequeues the oldest
received byte, or gives 0x00. -/
def Obligations.UartDataRegisterQueues : Prop :=
  (∀ (u : Uart) (v : Byte), u.writeData v = ⟨u.rx, u.tx ++ [v]⟩) ∧
  (∀ tx, Uart.readData ⟨[], tx⟩ = (0x00#8, ⟨[], tx⟩)) ∧
  ∀ v rx tx, Uart.readData ⟨v :: rx, tx⟩ = (v, ⟨rx, tx⟩)

/-- The tick (`60_exceptions.md` section 4; 8-bit width and the wrap at 0 by the spec's decisions D8 and D9):
nothing when disabled; a count other than 1 goes down by one and does not fire; a count of 1 fires, raises
interrupt 1 and reloads. -/
def Obligations.TimerTickCountsDown : Prop :=
  ∀ s : State,
    (s.tmr.enable = false → s.timerTick = s) ∧
    (s.tmr.enable = true → s.tmr.counter ≠ 1#8 →
      s.timerTick = s.setTmr ⟨s.tmr.reload, s.tmr.counter - 1#8, true, s.tmr.fired⟩) ∧
    (s.tmr.enable = true → s.tmr.counter = 1#8 →
      s.timerTick = (s.setTmr ⟨s.tmr.reload, s.tmr.reload, true, true⟩).setPend (s.pend ||| 0x02#8))

/-- The period (`60_exceptions.md` section 4, derived there from decisions D8 and D9): an enabled timer freshly
loaded with its reload value `N` reaches its first expiry on tick `N`, on tick 256 for `N = 0`, and not
before, and is then loaded as at the start. -/
def Obligations.TimerPeriodIsReload : Prop :=
  ∀ (t : Timer), t.enable = true → t.counter = t.reload →
    let period := if t.reload = 0#8 then 256 else t.reload.toNat
    (∀ k, k < period →
      Nat.repeat Timer.tick k t = ⟨t.reload, t.reload - BitVec.ofNat 8 k, true, t.fired⟩) ∧
    Nat.repeat Timer.tick period t = ⟨t.reload, t.reload, true, true⟩

/-! ## Interrupts -/

/-- `RaiseInterrupt(n)` (`60_exceptions.md` section 2; while pending or halted by the spec's decision D22): bit
`n` of the pending mask and nothing else, and nothing at all for `n > 7`. -/
def Obligations.RaiseInterruptSetsPendingBit : Prop :=
  ∀ (s : State) (n : Nat),
    (n ≤ 7 → ∃ p : BitVec 8, s.raiseInterrupt n = s.setPend p ∧ p.getLsbD n = true ∧
      ∀ m, m ≠ n → p.getLsbD m = s.pend.getLsbD m) ∧
    (7 < n → s.raiseInterrupt n = s)

/-- The interrupt frame (R187): pc high at `S-1`, pc low at `S-2`, the flags byte (Z, C and the IE before the
entry in bits 0 to 2, 0 above) at `S-3`, wherever these lie, sp at `S-3`, and nothing else saved; where the
frame lies in RAM its three bytes read back so, and no other RAM byte changes. -/
def Obligations.InterruptFrameLayout : Prop :=
  ∀ (s : State) (n : Byte),
    let t := s.enterInterrupt n
    (let w := ((s.memWrite (s.sp - 1#16) (hi8 s.pc)).memWrite (s.sp - 2#16) (lo8 s.pc)).memWrite
       (s.sp - 3#16) s.packFlags
     t.ram = w.ram ∧ t.tmr = w.tmr ∧ t.uart.tx = w.uart.tx) ∧
    s.packFlags.toNat = s.z.toNat + 2 * s.c.toNat + 4 * s.ie.toNat ∧
    ((s.sp - 1#16).toNat ≤ 0xEFFF → (s.sp - 2#16).toNat ≤ 0xEFFF → (s.sp - 3#16).toNat ≤ 0xEFFF →
      t.byteAt (s.sp - 1#16) = hi8 s.pc ∧ t.byteAt (s.sp - 2#16) = lo8 s.pc ∧
      t.byteAt (s.sp - 3#16) = s.packFlags ∧ t.tmr = s.tmr) ∧
    RamKeptOutside [s.sp - 1#16, s.sp - 2#16, s.sp - 3#16] s t ∧
    t.sp = s.sp - 3#16 ∧ t.ie = false ∧ t.pend = s.pend ∧ t.halted = s.halted ∧
    RegsKept s t ∧ FlagsKept s t ∧ OutsideKept s t

/-- The round trip (R191): RTI in any state whose sp and frame are those the entry left restores Z, C, IE, pc
and sp, when the frame lies in RAM. -/
def Obligations.InterruptRoundTripRestores : Prop :=
  ∀ (s u : State) (n : Byte), (s.sp - 1#16).toNat ≤ 0xEFFF → (s.sp - 2#16).toNat ≤ 0xEFFF →
    (s.sp - 3#16).toNat ≤ 0xEFFF → u.sp = (s.enterInterrupt n).sp →
    (∀ k ∈ [1#16, 2#16, 3#16], u.byteAt (s.sp - k) = (s.enterInterrupt n).byteAt (s.sp - k)) →
    ∃ t, exec .rti u = .next t ∧ t.z = s.z ∧ t.c = s.c ∧ t.ie = s.ie ∧ t.pc = s.pc ∧ t.sp = s.sp

/-- The stack meets the vector table (`70_reset_and_hazards.md` section 3, the spec's own derivation): entered
from the reset sp, entries 0 to 5 keep their loaded vectors, entry 6 is read from its own frame and entry 7
gets the pushed pc's high byte as its low byte. -/
def Obligations.VectorsReadAfterTheFrame : Prop :=
  ∀ (s : State) (n : Byte), s.sp = 0xEFFF#16 →
    (n.toNat ≤ 5 → (s.enterInterrupt n).pc.toNat =
      (s.ram.read (0xEFF1 + 2 * n.toNat)).toNat * 256 + (s.ram.read (0xEFF0 + 2 * n.toNat)).toNat) ∧
    (n = 6#8 → (s.enterInterrupt n).pc.toNat = (lo8 s.pc).toNat * 256 + s.packFlags.toNat) ∧
    (n = 7#8 → (s.enterInterrupt n).pc.toNat = (s.ram.read 0xEFFF).toNat * 256 + (hi8 s.pc).toNat)

/-- SWI numbers above 7 (`60_exceptions.md` section 2), with the frame in RAM: 8 takes its vector from the timer's
registers, 9 from the UART with one byte dequeued, 10 to 255 jump to 0x0000. Four of the spec's decisions enter:
the full vector formula (D15, log entry 13); for 8, what the timer's registers read (section 4, D7, log entry
10); for 9, the status value (section 5, D11, log entry 14) and the low byte's read before the status (D17, log
entry 11). -/
def Obligations.SwiBeyondTableReadsDevices : Prop :=
  ∀ (s : State) (n : Byte), (s.sp - 1#16).toNat ≤ 0xEFFF → (s.sp - 2#16).toNat ≤ 0xEFFF →
    (s.sp - 3#16).toNat ≤ 0xEFFF →
    ∃ t, exec (.swi n) s = .next t ∧
      (n = 8#8 → t.pc.toNat = s.tmr.reload.toNat + 256 * (s.tmr.fired.toNat + 2 * s.tmr.enable.toNat) ∧
        t.uart = s.uart) ∧
      (n = 9#8 → t.uart = ⟨s.uart.rx.tail, s.uart.tx⟩ ∧ t.pc.toNat =
        (s.uart.rx.headD 0x00#8).toNat + 256 * (if s.uart.rx.tail = [] then 2 else 3)) ∧
      (10 ≤ n.toNat → t.pc = 0x0000#16 ∧ t.uart = s.uart)

/-! ## Who writes what -/

/-- Flag writers (R27): the control unit asserts `flags_write` for ADD, SUB, AND, OR, CMP and ADDI alone; RTI
restores both flags from the saved byte; every other instruction and interrupt entry leave both unchanged. -/
def Obligations.FlagsWrittenOnlyByAluAndRti : Prop :=
  (∀ op z, (controlUnit op z).flagsWrite = true ↔ op ∈ [0x4#4, 0x5#4, 0x6#4, 0x7#4, 0x9#4, 0xD#4]) ∧
  (∀ s, ∃ t, exec .rti s = .next t ∧ t.z = (s.byteAt s.sp).getLsbD 0 ∧ t.c = (s.byteAt s.sp).getLsbD 1) ∧
  (∀ (s : State) (n : Nat), FlagsKept s (s.takeInterrupt n)) ∧
  ∀ (i : Instr) (s t : State), exec i s = .next t →
    match i with
    | .add _ _ | .sub _ _ | .and _ _ | .or _ _ | .cmp _ _ | .addi _ _ | .rti => True
    | _ => FlagsKept s t

/-- Flag readers (R28): the next state depends on C only through SWI, and on Z only through JZ, JNZ and SWI;
interrupt entry saves both. For every other instruction, starting with another value of the flag changes
nothing but that flag. -/
def Obligations.FlagsReadOnlyByJumpsAndEntry : Prop :=
  (∀ (i : Instr) (s t : State) (b : Bool), (∀ n, i ≠ .swi n) → exec i s = .next t →
    ∃ t', exec i (s.setFlags s.z b) = .next t' ∧ t'.setFlags t'.z false = t.setFlags t.z false) ∧
  (∀ (i : Instr) (s t : State) (b : Bool), (∀ n, i ≠ .swi n) → (∀ a, i ≠ .jz a) → (∀ a, i ≠ .jnz a) →
    exec i s = .next t →
    ∃ t', exec i (s.setFlags b s.c) = .next t' ∧ t'.setFlags false t'.c = t.setFlags false t.c) ∧
  ∀ s : State, s.packFlags.getLsbD 0 = s.z ∧ s.packFlags.getLsbD 1 = s.c

/-- Register writers (`10_state.md` section 2): an instruction writes at most the register its `rd` field names,
and only LDI, LD, ADD, SUB, AND, OR, MOV, ADDI and POP write one. -/
def Obligations.AtMostRdIsWritten : Prop :=
  ∀ (i : Instr) (s t : State), exec i s = .next t →
    match i with
    | .ldi rd _ | .ld rd _ | .add rd _ | .sub rd _ | .and rd _ | .or rd _ | .mov rd _ | .addi rd _
    | .pop rd => RegsKeptBut rd s t
    | _ => RegsKept s t

/-- Stack pointer writers (`10_state.md` section 3; modulo 65536, the spec's own derivation): the stack
instructions move sp by the bytes they push or pop, and no other instruction writes it. -/
def Obligations.SpMovesOnlyByPushAndPop : Prop :=
  ∀ (i : Instr) (s t : State), exec i s = .next t →
    t.sp = match i with
      | .push _ => s.sp - 1#16
      | .call _ => s.sp - 2#16
      | .swi _ => s.sp - 3#16
      | .pop _ => s.sp + 1#16
      | .ret => s.sp + 2#16
      | .rti => s.sp + 3#16
      | _ => s.sp

/-- The interrupt enable (R30): set by STI, cleared by CLI, by every interrupt entry and by reset, loaded by RTI
from bit 2 of the popped byte, and kept by every other instruction; with it clear nothing is dispatched, while
raising and SWI do not look at it. -/
def Obligations.InterruptEnableWriters : Prop :=
  (∀ (i : Instr) (s t : State), exec i s = .next t →
    t.ie = match i with
      | .sti => true
      | .cli | .swi _ => false
      | .rti => (s.byteAt s.sp).getLsbD 2
      | _ => s.ie) ∧
  (∀ (s : State) (n : Nat), (s.takeInterrupt n).ie = false) ∧ (∀ s : State, s.hostReset.ie = false) ∧
  (∀ s : State, s.halted = false → s.ie = false → cpuStep s = exec s.fetch.decoded s.fetch) ∧
  (∀ (s : State) (n : Nat) b, (s.setIe b).raiseInterrupt n = (s.raiseInterrupt n).setIe b) ∧
  ∀ (n : Byte) (s : State) b, ∃ t, exec (.swi n) (s.setIe b) = .next t ∧ t.sp = s.sp - 3#16

/-- The pending mask (R31): no instruction reads or writes it; a raise sets its bit, a dispatch clears its bit,
a reset clears it all. -/
def Obligations.PendingMaskUnseenByInstructions : Prop :=
  (∀ (i : Instr) (s t : State) (p : BitVec 8), exec i s = .next t →
    t.pend = s.pend ∧ exec i (s.setPend p) = .next (t.setPend p)) ∧
  (∀ (s : State) (n : Nat), n ≤ 7 → (s.raiseInterrupt n).pend.getLsbD n = true) ∧
  (∀ (s : State) (n : Nat), n ≤ 7 → (s.takeInterrupt n).pend.getLsbD n = false) ∧
  ∀ s : State, s.hostReset.pend = 0#8

/-! ## The whole machine -/

/-- Every one of the 23 instructions completes in every state, and no step faults: it answers a next state or
the refusal of a reserved encoding (`00_scope.md` section 4, `60_exceptions.md` section 1; the refusal is the
spec's decision D12). -/
def Obligations.EveryInstructionCompletes : Prop :=
  (∀ (i : Instr) (s : State), i.wellFormed = true → ∃ t, exec i s = .next t) ∧
  ∀ s : State, (∃ t, step s = .next t) ∨ step s = .refused .reservedEncoding0B ∨
    step s = .refused .reservedEncoding0F

/-- Every step, from every state in the invariant, whatever the host plans, leaves RAM in canonical form
(`20_memory.md` section 1: only 0x0000..0xEFFF is RAM, and a write changes one byte). -/
def Obligations.StepKeepsCanonicalRam : Prop :=
  ∀ s t : State, s.inv = true → step s = .next t → t.inv = true

/-- A run from a state in the invariant is safe at every step of it: a next state in the invariant, or the
refusal of a reserved encoding. -/
def Obligations.RunsFromInvariantAreSafe : Prop := ∀ s : State, s.inv = true → SafeRun s

/-- Reset of a running machine (R38): pc, sp, the halt flag, IE and the pending mask; registers and RAM keep
their values. -/
def Obligations.ResetClearsCpuState : Prop :=
  ∀ s : State, s.hostReset.pc = 0x0000#16 ∧ s.hostReset.sp = 0xEFFF#16 ∧ s.hostReset.halted = false ∧
    s.hostReset.ie = false ∧ s.hostReset.pend = 0x00#8 ∧ RegsKept s s.hostReset ∧ s.hostReset.ram = s.ram

/-- The state right after power-on and reset (`10_state.md` section 7): what the spec states, the devices by its
decision D10; RAM is in canonical form; and with nothing loaded the step executes whatever the open power-on
contents of RAM hold at address 0 (`70_reset_and_hazards.md` section 2, decision D3, log entry 3). -/
def Obligations.PowerOnStateAsStated : Prop :=
  State.reset.pc = 0x0000#16 ∧ State.reset.sp = 0xEFFF#16 ∧ State.reset.ie = false ∧
  State.reset.pend = 0x00#8 ∧ State.reset.halted = false ∧ State.reset.tmr = ⟨0, 0, false, false⟩ ∧
  State.reset.uart = ⟨[], []⟩ ∧ State.reset.inv = true ∧
  step State.reset =
    exec (decodeBytes (Config.ramInit 0) (Config.ramInit 1) (Config.ramInit 2)) State.reset.fetch

/-- The host's UART actions (R215, R216): a push appends one byte and raises interrupt 2; a drain returns the
transmit queue, oldest first, and empties it; neither changes anything else. -/
def Obligations.HostUartActions : Prop :=
  (∀ (s : State) (b : Byte), ∃ p : BitVec 8, p.getLsbD 2 = true ∧
    (∀ m, m ≠ 2 → p.getLsbD m = s.pend.getLsbD m) ∧
    s.hostPushRx b = (s.setUart ⟨s.uart.rx ++ [b], s.uart.tx⟩).setPend p) ∧
  ∀ s : State, s.hostDrainTx = (s.uart.tx, s.setUart ⟨s.uart.rx, []⟩)

/-- Loading (R223): one bus write per byte at consecutive addresses, modulo 65536; pc and the rest of the CPU
are untouched; bytes aimed at RAM are then read there, and the rest of RAM and the devices are unchanged. -/
def Obligations.LoadProgramWritesBytes : Prop :=
  (∀ (s : State) a b bytes, s.hostLoad [] a = s ∧
    s.hostLoad (b :: bytes) a = (s.memWrite a b).hostLoad bytes (a + 1#16)) ∧
  (∀ (s : State) (bytes : List Byte) (a : Addr),
    let t := s.hostLoad bytes a
    RegsKept s t ∧ FlagsKept s t ∧ PointersKept s t ∧ InterruptStateKept s t ∧ OutsideKept s t) ∧
  ∀ (s : State) (bytes : List Byte) (a : Addr), a.toNat + bytes.length ≤ 0xF000 →
    let t := s.hostLoad bytes a
    (∀ k, k < bytes.length → t.byteAt (a + BitVec.ofNat 16 k) = bytes.getD k 0x00#8) ∧
    (∀ b : Addr, b.toNat ≤ 0xEFFF → b.toNat < a.toNat ∨ a.toNat + bytes.length ≤ b.toNat →
      t.byteAt b = s.byteAt b) ∧ DevicesKept s t

/-- The driver loop (`60_exceptions.md` section 6, its halted test by the spec's decision D18): with a host that
plans nothing, `k` steps of the model are `Run(k)`; and a later run continues where an earlier one stopped. -/
def Obligations.StepsAreTheDriverLoop : Prop :=
  (∀ (k : Nat) (s : State), s.hostPlan = [] → Host.Core.run Sys2Proof.core k s = runLoop k s) ∧
  ∀ (m k : Nat) (s t : State), runLoop m s = .next t → runLoop (m + k) s = runLoop k t

/-- The model's way of placing an instruction (log entry 8): in every state, the very next step fetches the
placed word's three bytes and executes what they decode to. -/
def Obligations.PlacedWordRunsNext : Prop :=
  ∀ (s : State) (w : Nat) (i : Instr), w < 2 ^ 24 → decodeTableWord 24 w = some i →
    ∃ u : State, step (s.withFetchWord 24 w) = exec i u ∧
      u.ir = ⟨BitVec.ofNat 8 w, BitVec.ofNat 8 (w / 256), BitVec.ofNat 8 (w / 65536)⟩ ∧
      u.pc = (s.withFetchWord 24 w).pc + 3#16 ∧ RegsKept s u

/-! ## The structure below: gates, registers, control unit -/

/-- The ripple-carry adder's law for any width (`41_alu.md` section 1; the form with a carry-in is the spec's own
derivation): the sum modulo 2^N, and the carry-out. -/
def Obligations.RippleAdderAdds : Prop :=
  ∀ (xs ys : Bits) (cin : Bool), xs.length = ys.length →
    (rippleAdder xs ys cin).1.length = xs.length ∧
    bitsToNat (rippleAdder xs ys cin).1 = (bitsToNat xs + bitsToNat ys + cin.toNat) % 2 ^ xs.length ∧
    ((rippleAdder xs ys cin).2 = true ↔ 2 ^ xs.length ≤ bitsToNat xs + bitsToNat ys + cin.toNat)

/-- The ALU (R134, R135, R136, R138): the gate structure and the functional ALU answer the same for all
operands, and the results and flags are those of unsigned 8-bit arithmetic and bitwise logic. -/
def Obligations.AluStructureMatchesFunction : Prop :=
  (∀ (op1 op0 : Bool) (a b : Byte),
    aluGates op1 op0 (bitsOf a) (bitsOf b) =
      (bitsOf (alu (AluOp.ofBits op1 op0) a b).result, (alu (AluOp.ofBits op1 op0) a b).carry,
        (alu (AluOp.ofBits op1 op0) a b).zero)) ∧
  ∀ a b : Byte,
    (alu .add a b).result = a + b ∧ ((alu .add a b).carry = true ↔ 256 ≤ a.toNat + b.toNat) ∧
    (alu .sub a b).result = a - b ∧ (alu .and a b).result = a &&& b ∧ (alu .or a b).result = a ||| b ∧
    (alu .and a b).carry = false ∧ (alu .or a b).carry = false ∧
    ∀ op, ((alu op a b).zero = true ↔ (alu op a b).result = 0x00#8)

/-- The D latch and the D flip-flop (R43, R44): the latch is transparent while enabled and holds otherwise; the
flip-flop's output changes only on the 0→1 transition, to the input sampled there. -/
def Obligations.FlipFlopSamplesRisingEdge : Prop :=
  (∀ d q, dLatch true d q = d ∧ dLatch false d q = q) ∧
  ∀ (ff : DFlipFlop) (d d' : Bool), (dffClock ff false d).slave = ff.slave ∧
    (dffEdge ff d).slave = d ∧ (dffClock (dffEdge ff d) true d').slave = d ∧
    (dffClock (dffEdge ff d) false d').slave = d

/-- The N-bit register (R45): a rising edge with load takes the data, one without load keeps the value, and after
a load any number of clock calls without load, low or high, keep the loaded value. -/
def Obligations.RegisterLoadsAndHolds : Prop :=
  ∀ (r : RegisterN) (data : Bits), data.length = r.length →
    registerValue (registerEdge r true data) = data ∧
    registerValue (registerEdge r false data) = registerValue r ∧
    ∀ calls : List (Bool × Bits), (∀ p ∈ calls, p.2.length = r.length) →
      registerValue (calls.foldl (fun q p => registerClock q p.1 false p.2) (registerEdge r true data)) = data

/-- The decoder (R114): output `k` is 1 exactly when the enable is 1 and the address equals `k`. -/
def Obligations.DecoderIsOneHot : Prop :=
  ∀ (addr : Bits) (enable : Bool), (decoder addr enable).length = 2 ^ addr.length ∧
    ∀ k, k < 2 ^ addr.length →
      ((decoder addr enable).getD k false = true ↔ enable = true ∧ bitsToNat addr = k)

/-- The register file's structure (R47): the read port gives the selected register, and a rising edge writes
exactly the selected one when enabled and none otherwise. -/
def Obligations.RegisterFileStructureMatches : Prop :=
  ∀ (x : RegFile) (r q : Reg) (v : Byte) (en : Bool),
    let b := bankWrite (bankOf x) (r.sel.getLsbD 1) (r.sel.getLsbD 0) en (bitsOf v)
    bankRead b (q.sel.getLsbD 1) (q.sel.getLsbD 0) =
      bitsOf (if en = true then (x.set r v).get q else x.get q)

/-- The program counter's structure (`10_state.md` section 8; the wrap is the spec's own derivation): a rising
edge gives `pc + 3` modulo 65536, or the jump address; reset forces 0. -/
def Obligations.PcStructureAdvancesOrJumps : Prop :=
  ∀ (v a : Addr) (reset jump : Bool), pcEdge reset jump (bitsOf a) (bitsOf v) =
    bitsOf (if reset then 0x0000#16 else if jump then a else v + 3#16)

/-- Execute (R101): for the fourteen opcodes that go through the control unit, the instruction's whole effect is
what the datapath does under the control unit's signals; 0xE is CALL and 0x0 the misc dispatch. -/
def Obligations.InstructionsMatchDatapath : Prop :=
  ∀ s : State,
    (opcodeField s.ir.b2 ≠ 0x0#4 → opcodeField s.ir.b2 ≠ 0xE#4 →
      exec s.decoded s = .next (executeDatapath s)) ∧
    (opcodeField s.ir.b2 = 0xE#4 → s.decoded = .call (imm16Field s.ir.b0 s.ir.b1)) ∧
    (opcodeField s.ir.b2 = 0x0#4 → s.decoded = decodeMisc s.ir.b0 s.ir.b2)
end

