-- ==== Sys2Proof/Laws/Decode.lean ====
section
/-! SUPPORT. The small facts about instruction fields: what each field of a packed byte 2 is, and how an address
splits into bytes. -/

namespace Sys2Proof

@[simp] theorem Reg.ofSel_sel (r : Reg) : Reg.ofSel r.sel = r := by cases r <;> rfl

@[simp] theorem Reg.sel_ofSel (v : BitVec 2) : (Reg.ofSel v).sel = v := by revert v; decide

@[simp] theorem opcodeField_byte2 (op : BitVec 4) (rd rs : BitVec 2) : opcodeField (byte2 op rd rs) = op := by
  revert op rd rs; decide

@[simp] theorem rdField_byte2 (op : BitVec 4) (rd rs : BitVec 2) : rdField (byte2 op rd rs) = rd := by
  revert op rd rs; decide

@[simp] theorem rsField_byte2 (op : BitVec 4) (rd rs : BitVec 2) : rsField (byte2 op rd rs) = rs := by
  revert op rd rs; decide

/-- `imm16 = b1 * 256 + b0` (R93). -/
theorem toNat_imm16Field (b0 b1 : Byte) : (imm16Field b0 b1).toNat = b1.toNat * 256 + b0.toNat := by
  have h0 := b0.isLt
  unfold imm16Field
  rw [BitVec.toNat_append, ← Nat.shiftLeft_add_eq_or_of_lt h0, Nat.shiftLeft_eq]

@[simp] theorem imm16Field_lo8_hi8 (a : Addr) : imm16Field (lo8 a) (hi8 a) = a := by
  have h := a.isLt
  refine BitVec.eq_of_toNat_eq ?_
  rw [toNat_imm16Field]
  simp only [lo8, hi8, BitVec.extractLsb'_toNat, Nat.shiftRight_eq_div_pow]
  omega

@[simp] theorem lo8_zero_append (v : Byte) : lo8 (0#8 ++ v) = v := by
  have h := v.isLt
  refine BitVec.eq_of_toNat_eq ?_
  simp only [lo8, BitVec.extractLsb'_toNat, BitVec.toNat_append]
  simp
  omega

@[simp] theorem lo8_imm16Field (b0 b1 : Byte) : lo8 (imm16Field b0 b1) = b0 := by
  have h := b0.isLt
  refine BitVec.eq_of_toNat_eq ?_
  simp only [lo8, BitVec.extractLsb'_toNat, toNat_imm16Field, Nat.shiftRight_eq_div_pow]
  omega

@[simp] theorem hi8_imm16Field (b0 b1 : Byte) : hi8 (imm16Field b0 b1) = b1 := by
  have h := b0.isLt
  have h1 := b1.isLt
  refine BitVec.eq_of_toNat_eq ?_
  simp only [hi8, BitVec.extractLsb'_toNat, toNat_imm16Field, Nat.shiftRight_eq_div_pow]
  omega

/-- Opcode 0x0 is the misc dispatch (R96, R101). -/
theorem decodeBytes_misc {b2 : Byte} (b0 b1 : Byte) (h : opcodeField b2 = 0#4) :
    decodeBytes b0 b1 b2 = decodeMisc b0 b2 := by
  simp [decodeBytes, h]

end Sys2Proof
end

