-- ==== Sys2Proof/Laws/Memory.lean ====
section
/-! SUPPORT. What RAM's operations do: read after write, and the canonical form they keep. -/

namespace Sys2Proof.Machine

/-- All that a write does to any list of cells: its address holds the value, every other one what it held. -/
theorem Memory.find_write (m : Memory) (a b : Nat) (v : Byte) :
    (m.write a v).find b = if b = a then some v else m.find b := by
  induction m with
  | nil => simp [write, find, eq_comm]
  | cons c m ih =>
    obtain ⟨k, w⟩ := c
    by_cases hlt : a < k
    · simp [write, hlt, find, eq_comm]
    · by_cases hk : k = a
      · subst hk
        by_cases hb : k = b
        · simp [write, find, hb]
        · simp [write, find, hb, Ne.symm (Ne.intro hb)]
      · by_cases hb : k = b
        · subst hb; simp [write, hlt, hk, find]
        · simp [write, hlt, hk, find, hb, ih]

/-- Power-on RAM reads as the free value of each address (R64). -/
@[simp] theorem Memory.read_nil (a : Nat) : Memory.read [] a = Config.ramInit a := rfl

/-- A read after a write to the same address gives the value written (R64), in any list of cells. -/
@[simp] theorem Memory.read_write_same (m : Memory) (a : Nat) (v : Byte) : (m.write a v).read a = v := by
  simp [read, find_write]

/-- A write leaves every other address alone (R62). -/
theorem Memory.read_write_other (m : Memory) {a b : Nat} (v : Byte) (h : b ≠ a) :
    (m.write a v).read b = m.read b := by
  simp [read, find_write, h]

/-- The head's bounds and the tail's form. -/
theorem Memory.wfFrom_cons {lo k : Nat} {v : Byte} {m : Memory} :
    wfFrom lo ((k, v) :: m) = true ↔ lo ≤ k ∧ k ≤ Config.ramLast ∧ wfFrom (k + 1) m = true := by
  simp [wfFrom, and_assoc]

theorem Memory.wfFrom_write {lo a : Nat} {m : Memory} (v : Byte) (hw : wfFrom lo m = true) (hlo : lo ≤ a)
    (ha : a ≤ Config.ramLast) : wfFrom lo (m.write a v) = true := by
  induction m generalizing lo with
  | nil => exact wfFrom_cons.mpr ⟨hlo, ha, rfl⟩
  | cons c m ih =>
    obtain ⟨k, w⟩ := c
    obtain ⟨h1, h2, h3⟩ := wfFrom_cons.mp hw
    unfold write
    split
    · exact wfFrom_cons.mpr ⟨hlo, ha, wfFrom_cons.mpr ⟨by omega, h2, h3⟩⟩
    · split
      · rename_i hk
        exact wfFrom_cons.mpr ⟨hlo, ha, hk ▸ h3⟩
      · exact wfFrom_cons.mpr ⟨h1, h2, ih h3 (by omega)⟩

/-- A write to a RAM address keeps the canonical form. -/
theorem Memory.wf_write {m : Memory} {a : Nat} (v : Byte) (hw : m.wf = true) (ha : a ≤ Config.ramLast) :
    (m.write a v).wf = true :=
  wfFrom_write v hw (Nat.zero_le a) ha

/-- Nothing is listed below the bound of a canonical list. -/
theorem Memory.find_below {lo b : Nat} {m : Memory} (hw : wfFrom lo m = true) (hb : b < lo) :
    m.find b = none := by
  induction m generalizing lo with
  | nil => rfl
  | cons c m ih =>
    obtain ⟨k, v⟩ := c
    obtain ⟨h1, -, h3⟩ := wfFrom_cons.mp hw
    simpa [find, show k ≠ b by omega] using ih h3 (by omega)

theorem Memory.wfFrom_ext {lo : Nat} {m n : Memory} (hm : wfFrom lo m = true) (hn : wfFrom lo n = true)
    (h : ∀ a, m.find a = n.find a) : m = n := by
  induction m generalizing lo n with
  | nil =>
    cases n with
    | nil => rfl
    | cons d n => have := h d.1; simp [find] at this
  | cons c m ih =>
    obtain ⟨k, v⟩ := c
    cases n with
    | nil => have := h k; simp [find] at this
    | cons d n =>
      obtain ⟨j, w⟩ := d
      obtain ⟨-, -, hm⟩ := wfFrom_cons.mp hm
      obtain ⟨-, -, hn⟩ := wfFrom_cons.mp hn
      have hk := h k
      have hj := h j
      have hkj : k = j := by
        rcases Nat.lt_trichotomy k j with hlt | heq | hgt
        · simp [find, show j ≠ k by omega, find_below hn (show k < j + 1 by omega)] at hk
        · exact heq
        · simp [find, show k ≠ j by omega, find_below hm (show j < k + 1 by omega)] at hj
      subst hkj
      have hv : v = w := by simpa [find] using hk
      have : m = n := ih hm hn fun a => by
        by_cases ha : k = a
        · rw [← ha, find_below hm (Nat.lt_succ_self k), find_below hn (Nat.lt_succ_self k)]
        · simpa [find, ha] using h a
      rw [hv, this]

/-- The canonical form is one form: memories with the same bytes written are equal lists. -/
theorem Memory.wf_ext {m n : Memory} (hm : m.wf = true) (hn : n.wf = true) (h : ∀ a, m.find a = n.find a) :
    m = n :=
  wfFrom_ext hm hn h

end Sys2Proof.Machine
end

