-- ==== Sys2Proof/Laws/State.lean ====
section
/-! SUPPORT. One lemma per field per update of `State`, true by `rfl`, so that no later proof unfolds a record
update. -/

namespace Sys2Proof.Machine

@[simp] theorem State.setX_x (s : State) (v : RegFile) : (s.setX v).x = v := rfl
@[simp] theorem State.setX_pc (s : State) (v : RegFile) : (s.setX v).pc = s.pc := rfl
@[simp] theorem State.setX_sp (s : State) (v : RegFile) : (s.setX v).sp = s.sp := rfl
@[simp] theorem State.setX_z (s : State) (v : RegFile) : (s.setX v).z = s.z := rfl
@[simp] theorem State.setX_c (s : State) (v : RegFile) : (s.setX v).c = s.c := rfl
@[simp] theorem State.setX_ie (s : State) (v : RegFile) : (s.setX v).ie = s.ie := rfl
@[simp] theorem State.setX_pend (s : State) (v : RegFile) : (s.setX v).pend = s.pend := rfl
@[simp] theorem State.setX_halted (s : State) (v : RegFile) : (s.setX v).halted = s.halted := rfl
@[simp] theorem State.setX_ir (s : State) (v : RegFile) : (s.setX v).ir = s.ir := rfl
@[simp] theorem State.setX_ram (s : State) (v : RegFile) : (s.setX v).ram = s.ram := rfl
@[simp] theorem State.setX_tmr (s : State) (v : RegFile) : (s.setX v).tmr = s.tmr := rfl
@[simp] theorem State.setX_uart (s : State) (v : RegFile) : (s.setX v).uart = s.uart := rfl
@[simp] theorem State.setX_hostPlan (s : State) (v : RegFile) : (s.setX v).hostPlan = s.hostPlan := rfl
@[simp] theorem State.setX_hostOut (s : State) (v : RegFile) : (s.setX v).hostOut = s.hostOut := rfl
@[simp] theorem State.setX_resets (s : State) (v : RegFile) : (s.setX v).resets = s.resets := rfl

@[simp] theorem State.setPc_x (s : State) (v : Addr) : (s.setPc v).x = s.x := rfl
@[simp] theorem State.setPc_pc (s : State) (v : Addr) : (s.setPc v).pc = v := rfl
@[simp] theorem State.setPc_sp (s : State) (v : Addr) : (s.setPc v).sp = s.sp := rfl
@[simp] theorem State.setPc_z (s : State) (v : Addr) : (s.setPc v).z = s.z := rfl
@[simp] theorem State.setPc_c (s : State) (v : Addr) : (s.setPc v).c = s.c := rfl
@[simp] theorem State.setPc_ie (s : State) (v : Addr) : (s.setPc v).ie = s.ie := rfl
@[simp] theorem State.setPc_pend (s : State) (v : Addr) : (s.setPc v).pend = s.pend := rfl
@[simp] theorem State.setPc_halted (s : State) (v : Addr) : (s.setPc v).halted = s.halted := rfl
@[simp] theorem State.setPc_ir (s : State) (v : Addr) : (s.setPc v).ir = s.ir := rfl
@[simp] theorem State.setPc_ram (s : State) (v : Addr) : (s.setPc v).ram = s.ram := rfl
@[simp] theorem State.setPc_tmr (s : State) (v : Addr) : (s.setPc v).tmr = s.tmr := rfl
@[simp] theorem State.setPc_uart (s : State) (v : Addr) : (s.setPc v).uart = s.uart := rfl
@[simp] theorem State.setPc_hostPlan (s : State) (v : Addr) : (s.setPc v).hostPlan = s.hostPlan := rfl
@[simp] theorem State.setPc_hostOut (s : State) (v : Addr) : (s.setPc v).hostOut = s.hostOut := rfl
@[simp] theorem State.setPc_resets (s : State) (v : Addr) : (s.setPc v).resets = s.resets := rfl

@[simp] theorem State.setSp_x (s : State) (v : Addr) : (s.setSp v).x = s.x := rfl
@[simp] theorem State.setSp_pc (s : State) (v : Addr) : (s.setSp v).pc = s.pc := rfl
@[simp] theorem State.setSp_sp (s : State) (v : Addr) : (s.setSp v).sp = v := rfl
@[simp] theorem State.setSp_z (s : State) (v : Addr) : (s.setSp v).z = s.z := rfl
@[simp] theorem State.setSp_c (s : State) (v : Addr) : (s.setSp v).c = s.c := rfl
@[simp] theorem State.setSp_ie (s : State) (v : Addr) : (s.setSp v).ie = s.ie := rfl
@[simp] theorem State.setSp_pend (s : State) (v : Addr) : (s.setSp v).pend = s.pend := rfl
@[simp] theorem State.setSp_halted (s : State) (v : Addr) : (s.setSp v).halted = s.halted := rfl
@[simp] theorem State.setSp_ir (s : State) (v : Addr) : (s.setSp v).ir = s.ir := rfl
@[simp] theorem State.setSp_ram (s : State) (v : Addr) : (s.setSp v).ram = s.ram := rfl
@[simp] theorem State.setSp_tmr (s : State) (v : Addr) : (s.setSp v).tmr = s.tmr := rfl
@[simp] theorem State.setSp_uart (s : State) (v : Addr) : (s.setSp v).uart = s.uart := rfl
@[simp] theorem State.setSp_hostPlan (s : State) (v : Addr) : (s.setSp v).hostPlan = s.hostPlan := rfl
@[simp] theorem State.setSp_hostOut (s : State) (v : Addr) : (s.setSp v).hostOut = s.hostOut := rfl
@[simp] theorem State.setSp_resets (s : State) (v : Addr) : (s.setSp v).resets = s.resets := rfl

@[simp] theorem State.setIe_x (s : State) (v : Bool) : (s.setIe v).x = s.x := rfl
@[simp] theorem State.setIe_pc (s : State) (v : Bool) : (s.setIe v).pc = s.pc := rfl
@[simp] theorem State.setIe_sp (s : State) (v : Bool) : (s.setIe v).sp = s.sp := rfl
@[simp] theorem State.setIe_z (s : State) (v : Bool) : (s.setIe v).z = s.z := rfl
@[simp] theorem State.setIe_c (s : State) (v : Bool) : (s.setIe v).c = s.c := rfl
@[simp] theorem State.setIe_ie (s : State) (v : Bool) : (s.setIe v).ie = v := rfl
@[simp] theorem State.setIe_pend (s : State) (v : Bool) : (s.setIe v).pend = s.pend := rfl
@[simp] theorem State.setIe_halted (s : State) (v : Bool) : (s.setIe v).halted = s.halted := rfl
@[simp] theorem State.setIe_ir (s : State) (v : Bool) : (s.setIe v).ir = s.ir := rfl
@[simp] theorem State.setIe_ram (s : State) (v : Bool) : (s.setIe v).ram = s.ram := rfl
@[simp] theorem State.setIe_tmr (s : State) (v : Bool) : (s.setIe v).tmr = s.tmr := rfl
@[simp] theorem State.setIe_uart (s : State) (v : Bool) : (s.setIe v).uart = s.uart := rfl
@[simp] theorem State.setIe_hostPlan (s : State) (v : Bool) : (s.setIe v).hostPlan = s.hostPlan := rfl
@[simp] theorem State.setIe_hostOut (s : State) (v : Bool) : (s.setIe v).hostOut = s.hostOut := rfl
@[simp] theorem State.setIe_resets (s : State) (v : Bool) : (s.setIe v).resets = s.resets := rfl

@[simp] theorem State.setPend_x (s : State) (v : BitVec 8) : (s.setPend v).x = s.x := rfl
@[simp] theorem State.setPend_pc (s : State) (v : BitVec 8) : (s.setPend v).pc = s.pc := rfl
@[simp] theorem State.setPend_sp (s : State) (v : BitVec 8) : (s.setPend v).sp = s.sp := rfl
@[simp] theorem State.setPend_z (s : State) (v : BitVec 8) : (s.setPend v).z = s.z := rfl
@[simp] theorem State.setPend_c (s : State) (v : BitVec 8) : (s.setPend v).c = s.c := rfl
@[simp] theorem State.setPend_ie (s : State) (v : BitVec 8) : (s.setPend v).ie = s.ie := rfl
@[simp] theorem State.setPend_pend (s : State) (v : BitVec 8) : (s.setPend v).pend = v := rfl
@[simp] theorem State.setPend_halted (s : State) (v : BitVec 8) : (s.setPend v).halted = s.halted := rfl
@[simp] theorem State.setPend_ir (s : State) (v : BitVec 8) : (s.setPend v).ir = s.ir := rfl
@[simp] theorem State.setPend_ram (s : State) (v : BitVec 8) : (s.setPend v).ram = s.ram := rfl
@[simp] theorem State.setPend_tmr (s : State) (v : BitVec 8) : (s.setPend v).tmr = s.tmr := rfl
@[simp] theorem State.setPend_uart (s : State) (v : BitVec 8) : (s.setPend v).uart = s.uart := rfl
@[simp] theorem State.setPend_hostPlan (s : State) (v : BitVec 8) : (s.setPend v).hostPlan = s.hostPlan := rfl
@[simp] theorem State.setPend_hostOut (s : State) (v : BitVec 8) : (s.setPend v).hostOut = s.hostOut := rfl
@[simp] theorem State.setPend_resets (s : State) (v : BitVec 8) : (s.setPend v).resets = s.resets := rfl

@[simp] theorem State.setHalted_x (s : State) (v : Bool) : (s.setHalted v).x = s.x := rfl
@[simp] theorem State.setHalted_pc (s : State) (v : Bool) : (s.setHalted v).pc = s.pc := rfl
@[simp] theorem State.setHalted_sp (s : State) (v : Bool) : (s.setHalted v).sp = s.sp := rfl
@[simp] theorem State.setHalted_z (s : State) (v : Bool) : (s.setHalted v).z = s.z := rfl
@[simp] theorem State.setHalted_c (s : State) (v : Bool) : (s.setHalted v).c = s.c := rfl
@[simp] theorem State.setHalted_ie (s : State) (v : Bool) : (s.setHalted v).ie = s.ie := rfl
@[simp] theorem State.setHalted_pend (s : State) (v : Bool) : (s.setHalted v).pend = s.pend := rfl
@[simp] theorem State.setHalted_halted (s : State) (v : Bool) : (s.setHalted v).halted = v := rfl
@[simp] theorem State.setHalted_ir (s : State) (v : Bool) : (s.setHalted v).ir = s.ir := rfl
@[simp] theorem State.setHalted_ram (s : State) (v : Bool) : (s.setHalted v).ram = s.ram := rfl
@[simp] theorem State.setHalted_tmr (s : State) (v : Bool) : (s.setHalted v).tmr = s.tmr := rfl
@[simp] theorem State.setHalted_uart (s : State) (v : Bool) : (s.setHalted v).uart = s.uart := rfl
@[simp] theorem State.setHalted_hostPlan (s : State) (v : Bool) : (s.setHalted v).hostPlan = s.hostPlan := rfl
@[simp] theorem State.setHalted_hostOut (s : State) (v : Bool) : (s.setHalted v).hostOut = s.hostOut := rfl
@[simp] theorem State.setHalted_resets (s : State) (v : Bool) : (s.setHalted v).resets = s.resets := rfl

@[simp] theorem State.setIr_x (s : State) (v : InstrReg) : (s.setIr v).x = s.x := rfl
@[simp] theorem State.setIr_pc (s : State) (v : InstrReg) : (s.setIr v).pc = s.pc := rfl
@[simp] theorem State.setIr_sp (s : State) (v : InstrReg) : (s.setIr v).sp = s.sp := rfl
@[simp] theorem State.setIr_z (s : State) (v : InstrReg) : (s.setIr v).z = s.z := rfl
@[simp] theorem State.setIr_c (s : State) (v : InstrReg) : (s.setIr v).c = s.c := rfl
@[simp] theorem State.setIr_ie (s : State) (v : InstrReg) : (s.setIr v).ie = s.ie := rfl
@[simp] theorem State.setIr_pend (s : State) (v : InstrReg) : (s.setIr v).pend = s.pend := rfl
@[simp] theorem State.setIr_halted (s : State) (v : InstrReg) : (s.setIr v).halted = s.halted := rfl
@[simp] theorem State.setIr_ir (s : State) (v : InstrReg) : (s.setIr v).ir = v := rfl
@[simp] theorem State.setIr_ram (s : State) (v : InstrReg) : (s.setIr v).ram = s.ram := rfl
@[simp] theorem State.setIr_tmr (s : State) (v : InstrReg) : (s.setIr v).tmr = s.tmr := rfl
@[simp] theorem State.setIr_uart (s : State) (v : InstrReg) : (s.setIr v).uart = s.uart := rfl
@[simp] theorem State.setIr_hostPlan (s : State) (v : InstrReg) : (s.setIr v).hostPlan = s.hostPlan := rfl
@[simp] theorem State.setIr_hostOut (s : State) (v : InstrReg) : (s.setIr v).hostOut = s.hostOut := rfl
@[simp] theorem State.setIr_resets (s : State) (v : InstrReg) : (s.setIr v).resets = s.resets := rfl

@[simp] theorem State.setRam_x (s : State) (v : Memory) : (s.setRam v).x = s.x := rfl
@[simp] theorem State.setRam_pc (s : State) (v : Memory) : (s.setRam v).pc = s.pc := rfl
@[simp] theorem State.setRam_sp (s : State) (v : Memory) : (s.setRam v).sp = s.sp := rfl
@[simp] theorem State.setRam_z (s : State) (v : Memory) : (s.setRam v).z = s.z := rfl
@[simp] theorem State.setRam_c (s : State) (v : Memory) : (s.setRam v).c = s.c := rfl
@[simp] theorem State.setRam_ie (s : State) (v : Memory) : (s.setRam v).ie = s.ie := rfl
@[simp] theorem State.setRam_pend (s : State) (v : Memory) : (s.setRam v).pend = s.pend := rfl
@[simp] theorem State.setRam_halted (s : State) (v : Memory) : (s.setRam v).halted = s.halted := rfl
@[simp] theorem State.setRam_ir (s : State) (v : Memory) : (s.setRam v).ir = s.ir := rfl
@[simp] theorem State.setRam_ram (s : State) (v : Memory) : (s.setRam v).ram = v := rfl
@[simp] theorem State.setRam_tmr (s : State) (v : Memory) : (s.setRam v).tmr = s.tmr := rfl
@[simp] theorem State.setRam_uart (s : State) (v : Memory) : (s.setRam v).uart = s.uart := rfl
@[simp] theorem State.setRam_hostPlan (s : State) (v : Memory) : (s.setRam v).hostPlan = s.hostPlan := rfl
@[simp] theorem State.setRam_hostOut (s : State) (v : Memory) : (s.setRam v).hostOut = s.hostOut := rfl
@[simp] theorem State.setRam_resets (s : State) (v : Memory) : (s.setRam v).resets = s.resets := rfl

@[simp] theorem State.setTmr_x (s : State) (v : Timer) : (s.setTmr v).x = s.x := rfl
@[simp] theorem State.setTmr_pc (s : State) (v : Timer) : (s.setTmr v).pc = s.pc := rfl
@[simp] theorem State.setTmr_sp (s : State) (v : Timer) : (s.setTmr v).sp = s.sp := rfl
@[simp] theorem State.setTmr_z (s : State) (v : Timer) : (s.setTmr v).z = s.z := rfl
@[simp] theorem State.setTmr_c (s : State) (v : Timer) : (s.setTmr v).c = s.c := rfl
@[simp] theorem State.setTmr_ie (s : State) (v : Timer) : (s.setTmr v).ie = s.ie := rfl
@[simp] theorem State.setTmr_pend (s : State) (v : Timer) : (s.setTmr v).pend = s.pend := rfl
@[simp] theorem State.setTmr_halted (s : State) (v : Timer) : (s.setTmr v).halted = s.halted := rfl
@[simp] theorem State.setTmr_ir (s : State) (v : Timer) : (s.setTmr v).ir = s.ir := rfl
@[simp] theorem State.setTmr_ram (s : State) (v : Timer) : (s.setTmr v).ram = s.ram := rfl
@[simp] theorem State.setTmr_tmr (s : State) (v : Timer) : (s.setTmr v).tmr = v := rfl
@[simp] theorem State.setTmr_uart (s : State) (v : Timer) : (s.setTmr v).uart = s.uart := rfl
@[simp] theorem State.setTmr_hostPlan (s : State) (v : Timer) : (s.setTmr v).hostPlan = s.hostPlan := rfl
@[simp] theorem State.setTmr_hostOut (s : State) (v : Timer) : (s.setTmr v).hostOut = s.hostOut := rfl
@[simp] theorem State.setTmr_resets (s : State) (v : Timer) : (s.setTmr v).resets = s.resets := rfl

@[simp] theorem State.setUart_x (s : State) (v : Uart) : (s.setUart v).x = s.x := rfl
@[simp] theorem State.setUart_pc (s : State) (v : Uart) : (s.setUart v).pc = s.pc := rfl
@[simp] theorem State.setUart_sp (s : State) (v : Uart) : (s.setUart v).sp = s.sp := rfl
@[simp] theorem State.setUart_z (s : State) (v : Uart) : (s.setUart v).z = s.z := rfl
@[simp] theorem State.setUart_c (s : State) (v : Uart) : (s.setUart v).c = s.c := rfl
@[simp] theorem State.setUart_ie (s : State) (v : Uart) : (s.setUart v).ie = s.ie := rfl
@[simp] theorem State.setUart_pend (s : State) (v : Uart) : (s.setUart v).pend = s.pend := rfl
@[simp] theorem State.setUart_halted (s : State) (v : Uart) : (s.setUart v).halted = s.halted := rfl
@[simp] theorem State.setUart_ir (s : State) (v : Uart) : (s.setUart v).ir = s.ir := rfl
@[simp] theorem State.setUart_ram (s : State) (v : Uart) : (s.setUart v).ram = s.ram := rfl
@[simp] theorem State.setUart_tmr (s : State) (v : Uart) : (s.setUart v).tmr = s.tmr := rfl
@[simp] theorem State.setUart_uart (s : State) (v : Uart) : (s.setUart v).uart = v := rfl
@[simp] theorem State.setUart_hostPlan (s : State) (v : Uart) : (s.setUart v).hostPlan = s.hostPlan := rfl
@[simp] theorem State.setUart_hostOut (s : State) (v : Uart) : (s.setUart v).hostOut = s.hostOut := rfl
@[simp] theorem State.setUart_resets (s : State) (v : Uart) : (s.setUart v).resets = s.resets := rfl

@[simp] theorem State.setHostPlan_x (s : State) (v : List (List HostAction)) : (s.setHostPlan v).x = s.x := rfl
@[simp] theorem State.setHostPlan_pc (s : State) (v : List (List HostAction)) : (s.setHostPlan v).pc = s.pc := rfl
@[simp] theorem State.setHostPlan_sp (s : State) (v : List (List HostAction)) : (s.setHostPlan v).sp = s.sp := rfl
@[simp] theorem State.setHostPlan_z (s : State) (v : List (List HostAction)) : (s.setHostPlan v).z = s.z := rfl
@[simp] theorem State.setHostPlan_c (s : State) (v : List (List HostAction)) : (s.setHostPlan v).c = s.c := rfl
@[simp] theorem State.setHostPlan_ie (s : State) (v : List (List HostAction)) : (s.setHostPlan v).ie = s.ie := rfl
@[simp] theorem State.setHostPlan_pend (s : State) (v : List (List HostAction)) : (s.setHostPlan v).pend = s.pend := rfl
@[simp] theorem State.setHostPlan_halted (s : State) (v : List (List HostAction)) : (s.setHostPlan v).halted = s.halted := rfl
@[simp] theorem State.setHostPlan_ir (s : State) (v : List (List HostAction)) : (s.setHostPlan v).ir = s.ir := rfl
@[simp] theorem State.setHostPlan_ram (s : State) (v : List (List HostAction)) : (s.setHostPlan v).ram = s.ram := rfl
@[simp] theorem State.setHostPlan_tmr (s : State) (v : List (List HostAction)) : (s.setHostPlan v).tmr = s.tmr := rfl
@[simp] theorem State.setHostPlan_uart (s : State) (v : List (List HostAction)) : (s.setHostPlan v).uart = s.uart := rfl
@[simp] theorem State.setHostPlan_hostPlan (s : State) (v : List (List HostAction)) : (s.setHostPlan v).hostPlan = v := rfl
@[simp] theorem State.setHostPlan_hostOut (s : State) (v : List (List HostAction)) : (s.setHostPlan v).hostOut = s.hostOut := rfl
@[simp] theorem State.setHostPlan_resets (s : State) (v : List (List HostAction)) : (s.setHostPlan v).resets = s.resets := rfl

@[simp] theorem State.setHostOut_x (s : State) (v : List Byte) : (s.setHostOut v).x = s.x := rfl
@[simp] theorem State.setHostOut_pc (s : State) (v : List Byte) : (s.setHostOut v).pc = s.pc := rfl
@[simp] theorem State.setHostOut_sp (s : State) (v : List Byte) : (s.setHostOut v).sp = s.sp := rfl
@[simp] theorem State.setHostOut_z (s : State) (v : List Byte) : (s.setHostOut v).z = s.z := rfl
@[simp] theorem State.setHostOut_c (s : State) (v : List Byte) : (s.setHostOut v).c = s.c := rfl
@[simp] theorem State.setHostOut_ie (s : State) (v : List Byte) : (s.setHostOut v).ie = s.ie := rfl
@[simp] theorem State.setHostOut_pend (s : State) (v : List Byte) : (s.setHostOut v).pend = s.pend := rfl
@[simp] theorem State.setHostOut_halted (s : State) (v : List Byte) : (s.setHostOut v).halted = s.halted := rfl
@[simp] theorem State.setHostOut_ir (s : State) (v : List Byte) : (s.setHostOut v).ir = s.ir := rfl
@[simp] theorem State.setHostOut_ram (s : State) (v : List Byte) : (s.setHostOut v).ram = s.ram := rfl
@[simp] theorem State.setHostOut_tmr (s : State) (v : List Byte) : (s.setHostOut v).tmr = s.tmr := rfl
@[simp] theorem State.setHostOut_uart (s : State) (v : List Byte) : (s.setHostOut v).uart = s.uart := rfl
@[simp] theorem State.setHostOut_hostPlan (s : State) (v : List Byte) : (s.setHostOut v).hostPlan = s.hostPlan := rfl
@[simp] theorem State.setHostOut_hostOut (s : State) (v : List Byte) : (s.setHostOut v).hostOut = v := rfl
@[simp] theorem State.setHostOut_resets (s : State) (v : List Byte) : (s.setHostOut v).resets = s.resets := rfl

@[simp] theorem State.setResets_x (s : State) (v : Nat) : (s.setResets v).x = s.x := rfl
@[simp] theorem State.setResets_pc (s : State) (v : Nat) : (s.setResets v).pc = s.pc := rfl
@[simp] theorem State.setResets_sp (s : State) (v : Nat) : (s.setResets v).sp = s.sp := rfl
@[simp] theorem State.setResets_z (s : State) (v : Nat) : (s.setResets v).z = s.z := rfl
@[simp] theorem State.setResets_c (s : State) (v : Nat) : (s.setResets v).c = s.c := rfl
@[simp] theorem State.setResets_ie (s : State) (v : Nat) : (s.setResets v).ie = s.ie := rfl
@[simp] theorem State.setResets_pend (s : State) (v : Nat) : (s.setResets v).pend = s.pend := rfl
@[simp] theorem State.setResets_halted (s : State) (v : Nat) : (s.setResets v).halted = s.halted := rfl
@[simp] theorem State.setResets_ir (s : State) (v : Nat) : (s.setResets v).ir = s.ir := rfl
@[simp] theorem State.setResets_ram (s : State) (v : Nat) : (s.setResets v).ram = s.ram := rfl
@[simp] theorem State.setResets_tmr (s : State) (v : Nat) : (s.setResets v).tmr = s.tmr := rfl
@[simp] theorem State.setResets_uart (s : State) (v : Nat) : (s.setResets v).uart = s.uart := rfl
@[simp] theorem State.setResets_hostPlan (s : State) (v : Nat) : (s.setResets v).hostPlan = s.hostPlan := rfl
@[simp] theorem State.setResets_hostOut (s : State) (v : Nat) : (s.setResets v).hostOut = s.hostOut := rfl
@[simp] theorem State.setResets_resets (s : State) (v : Nat) : (s.setResets v).resets = v := rfl

@[simp] theorem State.setFlags_x (s : State) (z c : Bool) : (s.setFlags z c).x = s.x := rfl
@[simp] theorem State.setFlags_pc (s : State) (z c : Bool) : (s.setFlags z c).pc = s.pc := rfl
@[simp] theorem State.setFlags_sp (s : State) (z c : Bool) : (s.setFlags z c).sp = s.sp := rfl
@[simp] theorem State.setFlags_z (s : State) (z c : Bool) : (s.setFlags z c).z = z := rfl
@[simp] theorem State.setFlags_c (s : State) (z c : Bool) : (s.setFlags z c).c = c := rfl
@[simp] theorem State.setFlags_ie (s : State) (z c : Bool) : (s.setFlags z c).ie = s.ie := rfl
@[simp] theorem State.setFlags_pend (s : State) (z c : Bool) : (s.setFlags z c).pend = s.pend := rfl
@[simp] theorem State.setFlags_halted (s : State) (z c : Bool) : (s.setFlags z c).halted = s.halted := rfl
@[simp] theorem State.setFlags_ir (s : State) (z c : Bool) : (s.setFlags z c).ir = s.ir := rfl
@[simp] theorem State.setFlags_ram (s : State) (z c : Bool) : (s.setFlags z c).ram = s.ram := rfl
@[simp] theorem State.setFlags_tmr (s : State) (z c : Bool) : (s.setFlags z c).tmr = s.tmr := rfl
@[simp] theorem State.setFlags_uart (s : State) (z c : Bool) : (s.setFlags z c).uart = s.uart := rfl
@[simp] theorem State.setFlags_hostPlan (s : State) (z c : Bool) : (s.setFlags z c).hostPlan = s.hostPlan := rfl
@[simp] theorem State.setFlags_hostOut (s : State) (z c : Bool) : (s.setFlags z c).hostOut = s.hostOut := rfl
@[simp] theorem State.setFlags_resets (s : State) (z c : Bool) : (s.setFlags z c).resets = s.resets := rfl

end Sys2Proof.Machine
end

