-- ==== Sys2Proof/Laws/Ops.lean ====
section
/-! SUPPORT. One lemma per shared operation that says what it can do, and its effect on each field. -/

namespace Sys2Proof.Machine

theorem RegFile.get_set (x : RegFile) (r q : Reg) (v : Byte) :
    (x.set r v).get q = if q = r then v else x.get q := by
  cases r <;> cases q <;> rfl

@[simp] theorem State.reg_setReg_same (s : State) (r : Reg) (v : Byte) : (s.setReg r v).reg r = v := by
  simp [reg, setReg, RegFile.get_set]

theorem State.reg_setReg_other (s : State) {r q : Reg} (v : Byte) (h : q ≠ r) :
    (s.setReg r v).reg q = s.reg q := by
  simp [reg, setReg, RegFile.get_set, h]

@[simp] theorem State.setReg_pc (s : State) (r : Reg) (v : Byte) : (s.setReg r v).pc = s.pc := rfl
@[simp] theorem State.setReg_sp (s : State) (r : Reg) (v : Byte) : (s.setReg r v).sp = s.sp := rfl
@[simp] theorem State.setReg_z (s : State) (r : Reg) (v : Byte) : (s.setReg r v).z = s.z := rfl
@[simp] theorem State.setReg_c (s : State) (r : Reg) (v : Byte) : (s.setReg r v).c = s.c := rfl
@[simp] theorem State.setReg_ie (s : State) (r : Reg) (v : Byte) : (s.setReg r v).ie = s.ie := rfl
@[simp] theorem State.setReg_pend (s : State) (r : Reg) (v : Byte) : (s.setReg r v).pend = s.pend := rfl
@[simp] theorem State.setReg_halted (s : State) (r : Reg) (v : Byte) : (s.setReg r v).halted = s.halted := rfl
@[simp] theorem State.setReg_ir (s : State) (r : Reg) (v : Byte) : (s.setReg r v).ir = s.ir := rfl
@[simp] theorem State.setReg_ram (s : State) (r : Reg) (v : Byte) : (s.setReg r v).ram = s.ram := rfl
@[simp] theorem State.setReg_tmr (s : State) (r : Reg) (v : Byte) : (s.setReg r v).tmr = s.tmr := rfl
@[simp] theorem State.setReg_uart (s : State) (r : Reg) (v : Byte) : (s.setReg r v).uart = s.uart := rfl
@[simp] theorem State.setReg_hostPlan (s : State) (r : Reg) (v : Byte) : (s.setReg r v).hostPlan = s.hostPlan := rfl
@[simp] theorem State.setReg_hostOut (s : State) (r : Reg) (v : Byte) : (s.setReg r v).hostOut = s.hostOut := rfl
@[simp] theorem State.setReg_resets (s : State) (r : Reg) (v : Byte) : (s.setReg r v).resets = s.resets := rfl

@[simp] theorem State.latchFlags_x (s : State) (o : AluOut) : (s.latchFlags o).x = s.x := rfl
@[simp] theorem State.latchFlags_pc (s : State) (o : AluOut) : (s.latchFlags o).pc = s.pc := rfl
@[simp] theorem State.latchFlags_sp (s : State) (o : AluOut) : (s.latchFlags o).sp = s.sp := rfl
@[simp] theorem State.latchFlags_z (s : State) (o : AluOut) : (s.latchFlags o).z = o.zero := rfl
@[simp] theorem State.latchFlags_c (s : State) (o : AluOut) : (s.latchFlags o).c = o.carry := rfl
@[simp] theorem State.latchFlags_ie (s : State) (o : AluOut) : (s.latchFlags o).ie = s.ie := rfl
@[simp] theorem State.latchFlags_pend (s : State) (o : AluOut) : (s.latchFlags o).pend = s.pend := rfl
@[simp] theorem State.latchFlags_halted (s : State) (o : AluOut) : (s.latchFlags o).halted = s.halted := rfl
@[simp] theorem State.latchFlags_ir (s : State) (o : AluOut) : (s.latchFlags o).ir = s.ir := rfl
@[simp] theorem State.latchFlags_ram (s : State) (o : AluOut) : (s.latchFlags o).ram = s.ram := rfl
@[simp] theorem State.latchFlags_tmr (s : State) (o : AluOut) : (s.latchFlags o).tmr = s.tmr := rfl
@[simp] theorem State.latchFlags_uart (s : State) (o : AluOut) : (s.latchFlags o).uart = s.uart := rfl
@[simp] theorem State.latchFlags_hostPlan (s : State) (o : AluOut) : (s.latchFlags o).hostPlan = s.hostPlan := rfl
@[simp] theorem State.latchFlags_hostOut (s : State) (o : AluOut) : (s.latchFlags o).hostOut = s.hostOut := rfl
@[simp] theorem State.latchFlags_resets (s : State) (o : AluOut) : (s.latchFlags o).resets = s.resets := rfl

@[simp] theorem State.unpackFlags_x (s : State) (f : Byte) : (s.unpackFlags f).x = s.x := rfl
@[simp] theorem State.unpackFlags_pc (s : State) (f : Byte) : (s.unpackFlags f).pc = s.pc := rfl
@[simp] theorem State.unpackFlags_sp (s : State) (f : Byte) : (s.unpackFlags f).sp = s.sp := rfl
@[simp] theorem State.unpackFlags_z (s : State) (f : Byte) : (s.unpackFlags f).z = f.getLsbD 0 := rfl
@[simp] theorem State.unpackFlags_c (s : State) (f : Byte) : (s.unpackFlags f).c = f.getLsbD 1 := rfl
@[simp] theorem State.unpackFlags_ie (s : State) (f : Byte) : (s.unpackFlags f).ie = f.getLsbD 2 := rfl
@[simp] theorem State.unpackFlags_pend (s : State) (f : Byte) : (s.unpackFlags f).pend = s.pend := rfl
@[simp] theorem State.unpackFlags_halted (s : State) (f : Byte) : (s.unpackFlags f).halted = s.halted := rfl
@[simp] theorem State.unpackFlags_ir (s : State) (f : Byte) : (s.unpackFlags f).ir = s.ir := rfl
@[simp] theorem State.unpackFlags_ram (s : State) (f : Byte) : (s.unpackFlags f).ram = s.ram := rfl
@[simp] theorem State.unpackFlags_tmr (s : State) (f : Byte) : (s.unpackFlags f).tmr = s.tmr := rfl
@[simp] theorem State.unpackFlags_uart (s : State) (f : Byte) : (s.unpackFlags f).uart = s.uart := rfl
@[simp] theorem State.unpackFlags_hostPlan (s : State) (f : Byte) : (s.unpackFlags f).hostPlan = s.hostPlan := rfl
@[simp] theorem State.unpackFlags_hostOut (s : State) (f : Byte) : (s.unpackFlags f).hostOut = s.hostOut := rfl
@[simp] theorem State.unpackFlags_resets (s : State) (f : Byte) : (s.unpackFlags f).resets = s.resets := rfl

/-- What unpacking reads back from a packed byte (R29). -/
theorem State.packFlags_bits (s : State) :
    s.packFlags.getLsbD 0 = s.z ∧ s.packFlags.getLsbD 1 = s.c ∧ s.packFlags.getLsbD 2 = s.ie := by
  unfold packFlags
  cases s.z <;> cases s.c <;> cases s.ie <;> decide

/-- A bus read changes the state only by dequeuing at 0xF002 (R79). -/
theorem State.memRead_state (s : State) (a : Addr) :
    (s.memRead a).2 = s.setUart (if a = 0xF002#16 then s.uart.readData.2 else s.uart) := by
  have h2 : a = 0xF002#16 ↔ a.toNat = 0xF002 := by
    constructor
    · intro h; rw [h]; decide
    · intro h; exact BitVec.eq_of_toNat_eq h
  unfold memRead
  by_cases hr : a.toNat ≤ Config.ramLast
  · have : a ≠ 0xF002#16 := by rw [Ne, h2]; simp only [Config.ramLast] at hr; omega
    simp [hr, this, setUart]
  · rw [if_neg hr]
    simp only [Config.ramLast] at hr
    by_cases ha : a = 0xF002#16
    · subst ha; rfl
    · have ho : a.toNat - Config.ioBase ≠ 2 := by
        rw [h2] at ha; simp only [Config.ioBase]; omega
      rw [if_neg ha]
      generalize a.toNat - Config.ioBase = off at ho
      match off, ho with
      | 0, _ => rfl
      | 1, _ => rfl
      | 2, h => exact absurd rfl h
      | 3, _ => rfl
      | n + 4, _ => rfl

/-- What a bus read gives (R61, R65): one RAM byte, one device register, or 0x00. -/
theorem State.memRead_cases (s : State) (a : Addr) :
    (a.toNat ≤ Config.ramLast ∧ s.memRead a = (s.ram.read a.toNat, s)) ∨
    (a = 0xF000#16 ∧ s.memRead a = (s.tmr.read0, s)) ∨
    (a = 0xF001#16 ∧ s.memRead a = (s.tmr.read1, s)) ∨
    (a = 0xF002#16 ∧ s.memRead a = (s.uart.readData.1, s.setUart s.uart.readData.2)) ∨
    (a = 0xF003#16 ∧ s.memRead a = (s.uart.readStatus, s)) ∨
    (0xF004 ≤ a.toNat ∧ s.memRead a = (0x00#8, s)) := by
  unfold memRead
  by_cases hr : a.toNat ≤ Config.ramLast
  · simp [hr]
  · rw [if_neg hr]
    simp only [Config.ramLast] at hr
    unfold ioRead
    split <;> rename_i h <;> simp only [Config.ioBase] at h
    · exact .inr (.inl ⟨BitVec.eq_of_toNat_eq (by simp; omega), rfl⟩)
    · exact .inr (.inr (.inl ⟨BitVec.eq_of_toNat_eq (by simp; omega), rfl⟩))
    · exact .inr (.inr (.inr (.inl ⟨BitVec.eq_of_toNat_eq (by simp; omega), rfl⟩)))
    · exact .inr (.inr (.inr (.inr (.inl ⟨BitVec.eq_of_toNat_eq (by simp; omega), rfl⟩))))
    · rename_i off h0 h1 h2
      simp only [Config.ioBase, imp_false] at h0 h1 h2 h
      exact .inr (.inr (.inr (.inr (.inr ⟨by omega, rfl⟩))))

/-- What an address reads as depends on RAM and the devices alone. -/
theorem State.byteAt_congr {s t : State} (hr : t.ram = s.ram) (ht : t.tmr = s.tmr) (hu : t.uart = s.uart)
    (a : Addr) : t.byteAt a = s.byteAt a := by
  simp only [byteAt, memRead, hr]
  split
  · rfl
  · simp only [ioRead, ht, hu]
    split <;> rfl

/-- Reading one byte, address by address (R61, R63, R65). -/
theorem State.byteAt_ram (s : State) {a : Addr} (h : a.toNat ≤ Config.ramLast) :
    s.byteAt a = s.ram.read a.toNat := by
  simp [byteAt, memRead, h]

@[simp] theorem State.memRead_x (s : State) (a : Addr) : (s.memRead a).2.x = s.x := by
  rw [memRead_state]; rfl
@[simp] theorem State.memRead_pc (s : State) (a : Addr) : (s.memRead a).2.pc = s.pc := by
  rw [memRead_state]; rfl
@[simp] theorem State.memRead_sp (s : State) (a : Addr) : (s.memRead a).2.sp = s.sp := by
  rw [memRead_state]; rfl
@[simp] theorem State.memRead_z (s : State) (a : Addr) : (s.memRead a).2.z = s.z := by
  rw [memRead_state]; rfl
@[simp] theorem State.memRead_c (s : State) (a : Addr) : (s.memRead a).2.c = s.c := by
  rw [memRead_state]; rfl
@[simp] theorem State.memRead_ie (s : State) (a : Addr) : (s.memRead a).2.ie = s.ie := by
  rw [memRead_state]; rfl
@[simp] theorem State.memRead_pend (s : State) (a : Addr) : (s.memRead a).2.pend = s.pend := by
  rw [memRead_state]; rfl
@[simp] theorem State.memRead_halted (s : State) (a : Addr) : (s.memRead a).2.halted = s.halted := by
  rw [memRead_state]; rfl
@[simp] theorem State.memRead_ir (s : State) (a : Addr) : (s.memRead a).2.ir = s.ir := by
  rw [memRead_state]; rfl
@[simp] theorem State.memRead_ram (s : State) (a : Addr) : (s.memRead a).2.ram = s.ram := by
  rw [memRead_state]; rfl
@[simp] theorem State.memRead_tmr (s : State) (a : Addr) : (s.memRead a).2.tmr = s.tmr := by
  rw [memRead_state]; rfl
@[simp] theorem State.memRead_hostPlan (s : State) (a : Addr) : (s.memRead a).2.hostPlan = s.hostPlan := by
  rw [memRead_state]; rfl
@[simp] theorem State.memRead_hostOut (s : State) (a : Addr) : (s.memRead a).2.hostOut = s.hostOut := by
  rw [memRead_state]; rfl
@[simp] theorem State.memRead_resets (s : State) (a : Addr) : (s.memRead a).2.resets = s.resets := by
  rw [memRead_state]; rfl

/-- What a bus write does (R62, R65): one RAM byte, one timer register, one queued byte, or nothing. -/
theorem State.memWrite_cases (s : State) (a : Addr) (v : Byte) :
    (a.toNat ≤ Config.ramLast ∧ s.memWrite a v = s.setRam (s.ram.write a.toNat v)) ∨
    (a = 0xF000#16 ∧ s.memWrite a v = s.setTmr (s.tmr.write0 v)) ∨
    (a = 0xF001#16 ∧ s.memWrite a v = s.setTmr (s.tmr.write1 v)) ∨
    (a = 0xF002#16 ∧ s.memWrite a v = s.setUart (s.uart.writeData v)) ∨
    (0xF003 ≤ a.toNat ∧ s.memWrite a v = s) := by
  unfold memWrite
  by_cases hr : a.toNat ≤ Config.ramLast
  · simp [hr]
  · rw [if_neg hr]
    simp only [Config.ramLast] at hr
    unfold ioWrite
    split <;> rename_i h <;> simp only [Config.ioBase] at h
    · exact .inr (.inl ⟨BitVec.eq_of_toNat_eq (by simp; omega), rfl⟩)
    · exact .inr (.inr (.inl ⟨BitVec.eq_of_toNat_eq (by simp; omega), rfl⟩))
    · exact .inr (.inr (.inr (.inl ⟨BitVec.eq_of_toNat_eq (by simp; omega), rfl⟩)))
    · rename_i off h0 h1
      simp only [Config.ioBase, imp_false] at h0 h1 h
      exact .inr (.inr (.inr (.inr ⟨by omega, rfl⟩)))

@[simp] theorem State.memWrite_x (s : State) (a : Addr) (v : Byte) : (s.memWrite a v).x = s.x := by
  rcases s.memWrite_cases a v with ⟨_, h⟩ | ⟨_, h⟩ | ⟨_, h⟩ | ⟨_, h⟩ | ⟨_, h⟩ <;> rw [h] <;> rfl
@[simp] theorem State.memWrite_pc (s : State) (a : Addr) (v : Byte) : (s.memWrite a v).pc = s.pc := by
  rcases s.memWrite_cases a v with ⟨_, h⟩ | ⟨_, h⟩ | ⟨_, h⟩ | ⟨_, h⟩ | ⟨_, h⟩ <;> rw [h] <;> rfl
@[simp] theorem State.memWrite_sp (s : State) (a : Addr) (v : Byte) : (s.memWrite a v).sp = s.sp := by
  rcases s.memWrite_cases a v with ⟨_, h⟩ | ⟨_, h⟩ | ⟨_, h⟩ | ⟨_, h⟩ | ⟨_, h⟩ <;> rw [h] <;> rfl
@[simp] theorem State.memWrite_z (s : State) (a : Addr) (v : Byte) : (s.memWrite a v).z = s.z := by
  rcases s.memWrite_cases a v with ⟨_, h⟩ | ⟨_, h⟩ | ⟨_, h⟩ | ⟨_, h⟩ | ⟨_, h⟩ <;> rw [h] <;> rfl
@[simp] theorem State.memWrite_c (s : State) (a : Addr) (v : Byte) : (s.memWrite a v).c = s.c := by
  rcases s.memWrite_cases a v with ⟨_, h⟩ | ⟨_, h⟩ | ⟨_, h⟩ | ⟨_, h⟩ | ⟨_, h⟩ <;> rw [h] <;> rfl
@[simp] theorem State.memWrite_ie (s : State) (a : Addr) (v : Byte) : (s.memWrite a v).ie = s.ie := by
  rcases s.memWrite_cases a v with ⟨_, h⟩ | ⟨_, h⟩ | ⟨_, h⟩ | ⟨_, h⟩ | ⟨_, h⟩ <;> rw [h] <;> rfl
@[simp] theorem State.memWrite_pend (s : State) (a : Addr) (v : Byte) : (s.memWrite a v).pend = s.pend := by
  rcases s.memWrite_cases a v with ⟨_, h⟩ | ⟨_, h⟩ | ⟨_, h⟩ | ⟨_, h⟩ | ⟨_, h⟩ <;> rw [h] <;> rfl
@[simp] theorem State.memWrite_halted (s : State) (a : Addr) (v : Byte) : (s.memWrite a v).halted = s.halted := by
  rcases s.memWrite_cases a v with ⟨_, h⟩ | ⟨_, h⟩ | ⟨_, h⟩ | ⟨_, h⟩ | ⟨_, h⟩ <;> rw [h] <;> rfl
@[simp] theorem State.memWrite_ir (s : State) (a : Addr) (v : Byte) : (s.memWrite a v).ir = s.ir := by
  rcases s.memWrite_cases a v with ⟨_, h⟩ | ⟨_, h⟩ | ⟨_, h⟩ | ⟨_, h⟩ | ⟨_, h⟩ <;> rw [h] <;> rfl
@[simp] theorem State.memWrite_hostPlan (s : State) (a : Addr) (v : Byte) : (s.memWrite a v).hostPlan = s.hostPlan := by
  rcases s.memWrite_cases a v with ⟨_, h⟩ | ⟨_, h⟩ | ⟨_, h⟩ | ⟨_, h⟩ | ⟨_, h⟩ <;> rw [h] <;> rfl
@[simp] theorem State.memWrite_hostOut (s : State) (a : Addr) (v : Byte) : (s.memWrite a v).hostOut = s.hostOut := by
  rcases s.memWrite_cases a v with ⟨_, h⟩ | ⟨_, h⟩ | ⟨_, h⟩ | ⟨_, h⟩ | ⟨_, h⟩ <;> rw [h] <;> rfl
@[simp] theorem State.memWrite_resets (s : State) (a : Addr) (v : Byte) : (s.memWrite a v).resets = s.resets := by
  rcases s.memWrite_cases a v with ⟨_, h⟩ | ⟨_, h⟩ | ⟨_, h⟩ | ⟨_, h⟩ | ⟨_, h⟩ <;> rw [h] <;> rfl

/-- A bus write keeps RAM's canonical form. -/
theorem State.memWrite_wf {s : State} (a : Addr) (v : Byte) (h : s.ram.wf = true) :
    (s.memWrite a v).ram.wf = true := by
  rcases s.memWrite_cases a v with ⟨hr, e⟩ | ⟨_, e⟩ | ⟨_, e⟩ | ⟨_, e⟩ | ⟨_, e⟩ <;> rw [e]
  · exact Memory.wf_write v h hr
  all_goals exact h

/-- The RAM byte written reads as the value written (R64). -/
theorem State.byteAt_memWrite_same (s : State) {a : Addr} (v : Byte) (h : a.toNat ≤ Config.ramLast) :
    (s.memWrite a v).byteAt a = v := by
  simp [byteAt, memRead, memWrite, h]

/-- A bus write changes no other RAM byte (R62). -/
theorem State.byteAt_memWrite_other (s : State) {a b : Addr} (v : Byte) (hb : b.toNat ≤ Config.ramLast)
    (h : b ≠ a) : (s.memWrite a v).byteAt b = s.byteAt b := by
  rw [byteAt_ram _ hb, byteAt_ram _ hb]
  rcases s.memWrite_cases a v with ⟨_, e⟩ | ⟨_, e⟩ | ⟨_, e⟩ | ⟨_, e⟩ | ⟨_, e⟩ <;> rw [e]
  · exact Memory.read_write_other _ v fun e => h (BitVec.eq_of_toNat_eq e)
  all_goals rfl

/-- What the I/O window reads as (R65). -/
theorem State.byteAt_io (s : State) {a : Addr} (h : Config.ramLast < a.toNat) :
    s.byteAt a = if a = 0xF000#16 then s.tmr.read0 else if a = 0xF001#16 then s.tmr.read1
      else if a = 0xF002#16 then s.uart.readData.1 else if a = 0xF003#16 then s.uart.readStatus
      else 0x00#8 := by
  unfold byteAt
  rcases s.memRead_cases a with ⟨ha, e⟩ | ⟨rfl, e⟩ | ⟨rfl, e⟩ | ⟨rfl, e⟩ | ⟨rfl, e⟩ | ⟨ha, e⟩ <;> rw [e]
  · exact absurd ha (Nat.not_le_of_lt h)
  · simp
  · simp
  · simp
  · simp
  · have ne : ∀ n, n < 0xF004 → a ≠ BitVec.ofNat 16 n := by
      intro n hn e
      rw [e, BitVec.toNat_ofNat] at ha
      omega
    rw [if_neg (ne 0xF000 (by omega)), if_neg (ne 0xF001 (by omega)), if_neg (ne 0xF002 (by omega)),
      if_neg (ne 0xF003 (by omega))]

/-- A bus write to `a` changes the read of no other address, RAM or device (R62, R201, R202, R211). -/
theorem State.byteAt_memWrite_ne (s : State) {a b : Addr} (v : Byte) (h : b ≠ a) :
    (s.memWrite a v).byteAt b = s.byteAt b := by
  by_cases hb : b.toNat ≤ Config.ramLast
  · exact byteAt_memWrite_other s v hb h
  · rw [byteAt_io _ (Nat.lt_of_not_le hb), byteAt_io _ (Nat.lt_of_not_le hb)]
    rcases s.memWrite_cases a v with ⟨_, e⟩ | ⟨rfl, e⟩ | ⟨rfl, e⟩ | ⟨rfl, e⟩ | ⟨_, e⟩ <;> rw [e]
    · rfl
    · rw [if_neg h, if_neg h]; rfl
    · simp only [if_neg h]; rfl
    · simp only [if_neg h]; rfl

/-- A write to RAM leaves both devices alone (R62). -/
theorem State.memWrite_ram_devices (s : State) {a : Addr} (v : Byte) (h : a.toNat ≤ Config.ramLast) :
    (s.memWrite a v).tmr = s.tmr ∧ (s.memWrite a v).uart = s.uart := by
  simp [memWrite, h]

@[simp] theorem State.push8_x (s : State) (v : Byte) : (s.push8 v).x = s.x := by simp [push8]
@[simp] theorem State.push8_pc (s : State) (v : Byte) : (s.push8 v).pc = s.pc := by simp [push8]
@[simp] theorem State.push8_z (s : State) (v : Byte) : (s.push8 v).z = s.z := by simp [push8]
@[simp] theorem State.push8_c (s : State) (v : Byte) : (s.push8 v).c = s.c := by simp [push8]
@[simp] theorem State.push8_ie (s : State) (v : Byte) : (s.push8 v).ie = s.ie := by simp [push8]
@[simp] theorem State.push8_pend (s : State) (v : Byte) : (s.push8 v).pend = s.pend := by simp [push8]
@[simp] theorem State.push8_halted (s : State) (v : Byte) : (s.push8 v).halted = s.halted := by simp [push8]
@[simp] theorem State.push8_ir (s : State) (v : Byte) : (s.push8 v).ir = s.ir := by simp [push8]
@[simp] theorem State.push8_hostPlan (s : State) (v : Byte) : (s.push8 v).hostPlan = s.hostPlan := by simp [push8]
@[simp] theorem State.push8_hostOut (s : State) (v : Byte) : (s.push8 v).hostOut = s.hostOut := by simp [push8]
@[simp] theorem State.push8_resets (s : State) (v : Byte) : (s.push8 v).resets = s.resets := by simp [push8]
@[simp] theorem State.push8_sp (s : State) (v : Byte) : (s.push8 v).sp = s.sp - 1#16 := by simp [push8]

@[simp] theorem State.push16_x (s : State) (w : Addr) : (s.push16 w).x = s.x := by simp [push16]
@[simp] theorem State.push16_pc (s : State) (w : Addr) : (s.push16 w).pc = s.pc := by simp [push16]
@[simp] theorem State.push16_z (s : State) (w : Addr) : (s.push16 w).z = s.z := by simp [push16]
@[simp] theorem State.push16_c (s : State) (w : Addr) : (s.push16 w).c = s.c := by simp [push16]
@[simp] theorem State.push16_ie (s : State) (w : Addr) : (s.push16 w).ie = s.ie := by simp [push16]
@[simp] theorem State.push16_pend (s : State) (w : Addr) : (s.push16 w).pend = s.pend := by simp [push16]
@[simp] theorem State.push16_halted (s : State) (w : Addr) : (s.push16 w).halted = s.halted := by simp [push16]
@[simp] theorem State.push16_ir (s : State) (w : Addr) : (s.push16 w).ir = s.ir := by simp [push16]
@[simp] theorem State.push16_hostPlan (s : State) (w : Addr) : (s.push16 w).hostPlan = s.hostPlan := by simp [push16]
@[simp] theorem State.push16_hostOut (s : State) (w : Addr) : (s.push16 w).hostOut = s.hostOut := by simp [push16]
@[simp] theorem State.push16_resets (s : State) (w : Addr) : (s.push16 w).resets = s.resets := by simp [push16]
@[simp] theorem State.push16_sp (s : State) (w : Addr) : (s.push16 w).sp = s.sp - 2#16 := by
  simp [push16, BitVec.sub_sub]

@[simp] theorem State.pop8_x (s : State) : s.pop8.2.x = s.x := by simp [pop8]
@[simp] theorem State.pop8_pc (s : State) : s.pop8.2.pc = s.pc := by simp [pop8]
@[simp] theorem State.pop8_z (s : State) : s.pop8.2.z = s.z := by simp [pop8]
@[simp] theorem State.pop8_c (s : State) : s.pop8.2.c = s.c := by simp [pop8]
@[simp] theorem State.pop8_ie (s : State) : s.pop8.2.ie = s.ie := by simp [pop8]
@[simp] theorem State.pop8_pend (s : State) : s.pop8.2.pend = s.pend := by simp [pop8]
@[simp] theorem State.pop8_halted (s : State) : s.pop8.2.halted = s.halted := by simp [pop8]
@[simp] theorem State.pop8_ir (s : State) : s.pop8.2.ir = s.ir := by simp [pop8]
@[simp] theorem State.pop8_ram (s : State) : s.pop8.2.ram = s.ram := by simp [pop8]
@[simp] theorem State.pop8_tmr (s : State) : s.pop8.2.tmr = s.tmr := by simp [pop8]
@[simp] theorem State.pop8_hostPlan (s : State) : s.pop8.2.hostPlan = s.hostPlan := by simp [pop8]
@[simp] theorem State.pop8_hostOut (s : State) : s.pop8.2.hostOut = s.hostOut := by simp [pop8]
@[simp] theorem State.pop8_resets (s : State) : s.pop8.2.resets = s.resets := by simp [pop8]
@[simp] theorem State.pop8_sp (s : State) : s.pop8.2.sp = s.sp + 1#16 := by simp [pop8]

@[simp] theorem State.pop16_x (s : State) : s.pop16.2.x = s.x := by simp [pop16]
@[simp] theorem State.pop16_pc (s : State) : s.pop16.2.pc = s.pc := by simp [pop16]
@[simp] theorem State.pop16_z (s : State) : s.pop16.2.z = s.z := by simp [pop16]
@[simp] theorem State.pop16_c (s : State) : s.pop16.2.c = s.c := by simp [pop16]
@[simp] theorem State.pop16_ie (s : State) : s.pop16.2.ie = s.ie := by simp [pop16]
@[simp] theorem State.pop16_pend (s : State) : s.pop16.2.pend = s.pend := by simp [pop16]
@[simp] theorem State.pop16_halted (s : State) : s.pop16.2.halted = s.halted := by simp [pop16]
@[simp] theorem State.pop16_ir (s : State) : s.pop16.2.ir = s.ir := by simp [pop16]
@[simp] theorem State.pop16_ram (s : State) : s.pop16.2.ram = s.ram := by simp [pop16]
@[simp] theorem State.pop16_tmr (s : State) : s.pop16.2.tmr = s.tmr := by simp [pop16]
@[simp] theorem State.pop16_hostPlan (s : State) : s.pop16.2.hostPlan = s.hostPlan := by simp [pop16]
@[simp] theorem State.pop16_hostOut (s : State) : s.pop16.2.hostOut = s.hostOut := by simp [pop16]
@[simp] theorem State.pop16_resets (s : State) : s.pop16.2.resets = s.resets := by simp [pop16]
@[simp] theorem State.pop16_sp (s : State) : s.pop16.2.sp = s.sp + 2#16 := by
  simp [pop16, BitVec.add_assoc]

@[simp] theorem State.read16LE_x (s : State) (a : Addr) : (s.read16LE a).2.x = s.x := by simp [read16LE]
@[simp] theorem State.read16LE_pc (s : State) (a : Addr) : (s.read16LE a).2.pc = s.pc := by simp [read16LE]
@[simp] theorem State.read16LE_sp (s : State) (a : Addr) : (s.read16LE a).2.sp = s.sp := by simp [read16LE]
@[simp] theorem State.read16LE_z (s : State) (a : Addr) : (s.read16LE a).2.z = s.z := by simp [read16LE]
@[simp] theorem State.read16LE_c (s : State) (a : Addr) : (s.read16LE a).2.c = s.c := by simp [read16LE]
@[simp] theorem State.read16LE_ie (s : State) (a : Addr) : (s.read16LE a).2.ie = s.ie := by simp [read16LE]
@[simp] theorem State.read16LE_pend (s : State) (a : Addr) : (s.read16LE a).2.pend = s.pend := by simp [read16LE]
@[simp] theorem State.read16LE_halted (s : State) (a : Addr) : (s.read16LE a).2.halted = s.halted := by simp [read16LE]
@[simp] theorem State.read16LE_ir (s : State) (a : Addr) : (s.read16LE a).2.ir = s.ir := by simp [read16LE]
@[simp] theorem State.read16LE_ram (s : State) (a : Addr) : (s.read16LE a).2.ram = s.ram := by simp [read16LE]
@[simp] theorem State.read16LE_tmr (s : State) (a : Addr) : (s.read16LE a).2.tmr = s.tmr := by simp [read16LE]
@[simp] theorem State.read16LE_hostPlan (s : State) (a : Addr) : (s.read16LE a).2.hostPlan = s.hostPlan := by simp [read16LE]
@[simp] theorem State.read16LE_hostOut (s : State) (a : Addr) : (s.read16LE a).2.hostOut = s.hostOut := by simp [read16LE]
@[simp] theorem State.read16LE_resets (s : State) (a : Addr) : (s.read16LE a).2.resets = s.resets := by simp [read16LE]

theorem State.push8_wf {s : State} (v : Byte) (h : s.ram.wf = true) : (s.push8 v).ram.wf = true :=
  memWrite_wf _ v h

theorem State.push16_wf {s : State} (w : Addr) (h : s.ram.wf = true) : (s.push16 w).ram.wf = true :=
  push8_wf _ (push8_wf _ h)

/-- Interrupt entry changes sp, memory, devices, IE and pc, and nothing else (R186). -/

@[simp] theorem State.enterInterrupt_x (s : State) (n : Byte) : (s.enterInterrupt n).x = s.x := by
  simp [enterInterrupt]
@[simp] theorem State.enterInterrupt_z (s : State) (n : Byte) : (s.enterInterrupt n).z = s.z := by
  simp [enterInterrupt]
@[simp] theorem State.enterInterrupt_c (s : State) (n : Byte) : (s.enterInterrupt n).c = s.c := by
  simp [enterInterrupt]
@[simp] theorem State.enterInterrupt_pend (s : State) (n : Byte) : (s.enterInterrupt n).pend = s.pend := by
  simp [enterInterrupt]
@[simp] theorem State.enterInterrupt_halted (s : State) (n : Byte) : (s.enterInterrupt n).halted = s.halted := by
  simp [enterInterrupt]
@[simp] theorem State.enterInterrupt_ir (s : State) (n : Byte) : (s.enterInterrupt n).ir = s.ir := by
  simp [enterInterrupt]
@[simp] theorem State.enterInterrupt_hostPlan (s : State) (n : Byte) : (s.enterInterrupt n).hostPlan = s.hostPlan := by
  simp [enterInterrupt]
@[simp] theorem State.enterInterrupt_hostOut (s : State) (n : Byte) : (s.enterInterrupt n).hostOut = s.hostOut := by
  simp [enterInterrupt]
@[simp] theorem State.enterInterrupt_resets (s : State) (n : Byte) : (s.enterInterrupt n).resets = s.resets := by
  simp [enterInterrupt]
@[simp] theorem State.enterInterrupt_ie (s : State) (n : Byte) : (s.enterInterrupt n).ie = false := by
  simp [enterInterrupt]
@[simp] theorem State.enterInterrupt_sp (s : State) (n : Byte) : (s.enterInterrupt n).sp = s.sp - 3#16 := by
  simp [enterInterrupt, BitVec.sub_sub]

theorem State.enterInterrupt_wf {s : State} (n : Byte) (h : s.ram.wf = true) :
    (s.enterInterrupt n).ram.wf = true := by
  simpa [enterInterrupt] using push8_wf _ (push16_wf _ h)

/-- The return from an interrupt changes sp, pc, the flags, IE and, where it pops 0xF002, the receive queue
(R168). -/

@[simp] theorem State.returnFromInterrupt_x (s : State) : s.returnFromInterrupt.x = s.x := by
  simp [returnFromInterrupt]
@[simp] theorem State.returnFromInterrupt_pend (s : State) : s.returnFromInterrupt.pend = s.pend := by
  simp [returnFromInterrupt]
@[simp] theorem State.returnFromInterrupt_halted (s : State) : s.returnFromInterrupt.halted = s.halted := by
  simp [returnFromInterrupt]
@[simp] theorem State.returnFromInterrupt_ir (s : State) : s.returnFromInterrupt.ir = s.ir := by
  simp [returnFromInterrupt]
@[simp] theorem State.returnFromInterrupt_ram (s : State) : s.returnFromInterrupt.ram = s.ram := by
  simp [returnFromInterrupt]
@[simp] theorem State.returnFromInterrupt_tmr (s : State) : s.returnFromInterrupt.tmr = s.tmr := by
  simp [returnFromInterrupt]
@[simp] theorem State.returnFromInterrupt_hostPlan (s : State) : s.returnFromInterrupt.hostPlan = s.hostPlan := by
  simp [returnFromInterrupt]
@[simp] theorem State.returnFromInterrupt_hostOut (s : State) : s.returnFromInterrupt.hostOut = s.hostOut := by
  simp [returnFromInterrupt]
@[simp] theorem State.returnFromInterrupt_resets (s : State) : s.returnFromInterrupt.resets = s.resets := by
  simp [returnFromInterrupt]
@[simp] theorem State.returnFromInterrupt_sp (s : State) : s.returnFromInterrupt.sp = s.sp + 3#16 := by
  simp [returnFromInterrupt, BitVec.add_assoc]

@[simp] theorem State.raiseInterrupt_x (s : State) (n : Nat) : (s.raiseInterrupt n).x = s.x := by
  unfold raiseInterrupt; split <;> rfl
@[simp] theorem State.raiseInterrupt_pc (s : State) (n : Nat) : (s.raiseInterrupt n).pc = s.pc := by
  unfold raiseInterrupt; split <;> rfl
@[simp] theorem State.raiseInterrupt_sp (s : State) (n : Nat) : (s.raiseInterrupt n).sp = s.sp := by
  unfold raiseInterrupt; split <;> rfl
@[simp] theorem State.raiseInterrupt_z (s : State) (n : Nat) : (s.raiseInterrupt n).z = s.z := by
  unfold raiseInterrupt; split <;> rfl
@[simp] theorem State.raiseInterrupt_c (s : State) (n : Nat) : (s.raiseInterrupt n).c = s.c := by
  unfold raiseInterrupt; split <;> rfl
@[simp] theorem State.raiseInterrupt_ie (s : State) (n : Nat) : (s.raiseInterrupt n).ie = s.ie := by
  unfold raiseInterrupt; split <;> rfl
@[simp] theorem State.raiseInterrupt_halted (s : State) (n : Nat) : (s.raiseInterrupt n).halted = s.halted := by
  unfold raiseInterrupt; split <;> rfl
@[simp] theorem State.raiseInterrupt_ir (s : State) (n : Nat) : (s.raiseInterrupt n).ir = s.ir := by
  unfold raiseInterrupt; split <;> rfl
@[simp] theorem State.raiseInterrupt_ram (s : State) (n : Nat) : (s.raiseInterrupt n).ram = s.ram := by
  unfold raiseInterrupt; split <;> rfl
@[simp] theorem State.raiseInterrupt_tmr (s : State) (n : Nat) : (s.raiseInterrupt n).tmr = s.tmr := by
  unfold raiseInterrupt; split <;> rfl
@[simp] theorem State.raiseInterrupt_uart (s : State) (n : Nat) : (s.raiseInterrupt n).uart = s.uart := by
  unfold raiseInterrupt; split <;> rfl
@[simp] theorem State.raiseInterrupt_hostPlan (s : State) (n : Nat) : (s.raiseInterrupt n).hostPlan = s.hostPlan := by
  unfold raiseInterrupt; split <;> rfl
@[simp] theorem State.raiseInterrupt_hostOut (s : State) (n : Nat) : (s.raiseInterrupt n).hostOut = s.hostOut := by
  unfold raiseInterrupt; split <;> rfl
@[simp] theorem State.raiseInterrupt_resets (s : State) (n : Nat) : (s.raiseInterrupt n).resets = s.resets := by
  unfold raiseInterrupt; split <;> rfl

@[simp] theorem State.timerTick_x (s : State) : s.timerTick.x = s.x := by
  unfold timerTick; split <;> simp
@[simp] theorem State.timerTick_pc (s : State) : s.timerTick.pc = s.pc := by
  unfold timerTick; split <;> simp
@[simp] theorem State.timerTick_sp (s : State) : s.timerTick.sp = s.sp := by
  unfold timerTick; split <;> simp
@[simp] theorem State.timerTick_z (s : State) : s.timerTick.z = s.z := by
  unfold timerTick; split <;> simp
@[simp] theorem State.timerTick_c (s : State) : s.timerTick.c = s.c := by
  unfold timerTick; split <;> simp
@[simp] theorem State.timerTick_ie (s : State) : s.timerTick.ie = s.ie := by
  unfold timerTick; split <;> simp
@[simp] theorem State.timerTick_halted (s : State) : s.timerTick.halted = s.halted := by
  unfold timerTick; split <;> simp
@[simp] theorem State.timerTick_ir (s : State) : s.timerTick.ir = s.ir := by
  unfold timerTick; split <;> simp
@[simp] theorem State.timerTick_ram (s : State) : s.timerTick.ram = s.ram := by
  unfold timerTick; split <;> simp
@[simp] theorem State.timerTick_uart (s : State) : s.timerTick.uart = s.uart := by
  unfold timerTick; split <;> simp
@[simp] theorem State.timerTick_hostPlan (s : State) : s.timerTick.hostPlan = s.hostPlan := by
  unfold timerTick; split <;> simp
@[simp] theorem State.timerTick_hostOut (s : State) : s.timerTick.hostOut = s.hostOut := by
  unfold timerTick; split <;> simp
@[simp] theorem State.timerTick_resets (s : State) : s.timerTick.resets = s.resets := by
  unfold timerTick; split <;> simp
@[simp] theorem State.timerTick_tmr (s : State) : s.timerTick.tmr = s.tmr.tick := by
  unfold timerTick; split <;> simp

/-- The fetch changes pc, the instruction register and, where it reads 0xF002, the receive queue (R99). -/

@[simp] theorem State.fetch_x (s : State) : s.fetch.x = s.x := by simp [fetch]
@[simp] theorem State.fetch_sp (s : State) : s.fetch.sp = s.sp := by simp [fetch]
@[simp] theorem State.fetch_z (s : State) : s.fetch.z = s.z := by simp [fetch]
@[simp] theorem State.fetch_c (s : State) : s.fetch.c = s.c := by simp [fetch]
@[simp] theorem State.fetch_ie (s : State) : s.fetch.ie = s.ie := by simp [fetch]
@[simp] theorem State.fetch_pend (s : State) : s.fetch.pend = s.pend := by simp [fetch]
@[simp] theorem State.fetch_halted (s : State) : s.fetch.halted = s.halted := by simp [fetch]
@[simp] theorem State.fetch_ram (s : State) : s.fetch.ram = s.ram := by simp [fetch]
@[simp] theorem State.fetch_tmr (s : State) : s.fetch.tmr = s.tmr := by simp [fetch]
@[simp] theorem State.fetch_hostPlan (s : State) : s.fetch.hostPlan = s.hostPlan := by simp [fetch]
@[simp] theorem State.fetch_hostOut (s : State) : s.fetch.hostOut = s.hostOut := by simp [fetch]
@[simp] theorem State.fetch_resets (s : State) : s.fetch.resets = s.resets := by simp [fetch]
@[simp] theorem State.fetch_pc (s : State) : s.fetch.pc = s.pc + 3#16 := rfl

/-- The dispatch of an interrupt (R184). -/
theorem State.takeInterrupt_eq (s : State) (n : Nat) :
    s.takeInterrupt n = (s.setPend (s.pend &&& ~~~ irqBit n)).enterInterrupt (BitVec.ofNat 8 n) := rfl

/-- The lowest pending number is below 8, pending, and no lower one is (R184, R185). -/
theorem lowestPending_some {p : BitVec 8} {n : Nat} (h : lowestPending p = some n) :
    n < 8 ∧ p.getLsbD n = true ∧ ∀ m, m < n → p.getLsbD m = false := by
  unfold lowestPending at h
  simp only [List.find?_cons, List.find?_nil] at h
  repeat' split at h
  all_goals first
    | contradiction
    | (obtain rfl := Option.some.inj h
       refine ⟨by decide, by assumption, fun m hm => ?_⟩
       interval_cases m <;> simp_all)

/-- No interrupt is found exactly when none is pending. -/
theorem lowestPending_none {p : BitVec 8} (h : lowestPending p = none) : p = 0#8 := by
  unfold lowestPending at h
  simp only [List.find?_eq_none] at h
  refine BitVec.eq_of_getLsbD_eq fun i hi => ?_
  have := h i (by interval_cases i <;> simp)
  simpa using this

end Sys2Proof.Machine
end

