-- ==== Sys2Proof/Laws/HostSide.lean ====
section
/-! SUPPORT. What the host's actions, the interrupt dispatch and the fetch keep: RAM's canonical form, and the
CPU state that no bus write touches. -/

namespace Sys2Proof.Machine

/-- The reset state's RAM is in canonical form. -/
theorem reset_ram_wf : State.reset.ram.wf = true := rfl

/-- What loading a program keeps (R223: it does not reset the CPU and does not change `pc`). -/
theorem State.hostLoad_keeps (bytes : List Byte) (s : State) (a : Addr) :
    (s.hostLoad bytes a).x = s.x ∧ (s.hostLoad bytes a).pc = s.pc ∧ (s.hostLoad bytes a).sp = s.sp ∧
    (s.hostLoad bytes a).z = s.z ∧ (s.hostLoad bytes a).c = s.c ∧ (s.hostLoad bytes a).ie = s.ie ∧
    (s.hostLoad bytes a).pend = s.pend ∧ (s.hostLoad bytes a).halted = s.halted ∧
    (s.hostLoad bytes a).ir = s.ir ∧ (s.hostLoad bytes a).hostPlan = s.hostPlan ∧
    (s.hostLoad bytes a).hostOut = s.hostOut ∧ (s.hostLoad bytes a).resets = s.resets := by
  induction bytes generalizing s a with
  | nil => simp [hostLoad]
  | cons b bytes ih => simpa [hostLoad] using ih (s.memWrite a b) (a + 1#16)

theorem State.hostLoad_wf {s : State} (bytes : List Byte) (a : Addr) (h : s.ram.wf = true) :
    (s.hostLoad bytes a).ram.wf = true := by
  induction bytes generalizing s a with
  | nil => exact h
  | cons b bytes ih => exact ih (a + 1#16) (memWrite_wf a b h)

theorem State.hostAct_wf {s : State} (act : HostAction) (h : s.ram.wf = true) :
    (s.hostAct act).ram.wf = true := by
  cases act with
  | load bytes addr => exact hostLoad_wf bytes addr h
  | pushRx b => simpa [hostAct, hostPushRx] using h
  | drainTx => simpa [hostAct, hostDrainTx] using h
  | raiseLine n => simpa [hostAct] using h
  | reset => simpa [hostAct, hostReset] using h
  | busRead addr => simpa [hostAct] using h

theorem State.hostActs_wf {s : State} (acts : List HostAction) (h : s.ram.wf = true) :
    (s.hostActs acts).ram.wf = true := by
  induction acts generalizing s with
  | nil => exact h
  | cons act acts ih => exact ih (hostAct_wf act h)

theorem State.hostTurn_wf {s : State} (h : s.ram.wf = true) : s.hostTurn.ram.wf = true := by
  unfold hostTurn
  split
  · exact h
  · exact hostActs_wf _ h

theorem State.takeInterrupt_wf {s : State} (n : Nat) (h : s.ram.wf = true) :
    (s.takeInterrupt n).ram.wf = true :=
  enterInterrupt_wf _ h

/-- A host that plans nothing does nothing. -/
@[simp] theorem State.hostTurn_nil {s : State} (h : s.hostPlan = []) : s.hostTurn = s := by
  simp [hostTurn, h]

/-- What one CPU step can do (R97): nothing when halted, the dispatch of the lowest pending interrupt, or the
execution of the instruction it fetches. -/
theorem cpuStep_cases (s : State) :
    (s.halted = true ∧ cpuStep s = .next s) ∨
    (s.halted = false ∧ ∃ n, s.dispatchable = some n ∧ cpuStep s = .next (s.takeInterrupt n)) ∨
    (s.halted = false ∧ s.dispatchable = none ∧ cpuStep s = exec s.fetch.decoded s.fetch) := by
  unfold cpuStep
  cases hh : s.halted with
  | true => simp
  | false => cases hd : s.dispatchable <;> simp

end Sys2Proof.Machine
end

