-- ==== Sys2Proof/Laws/PerInstr.lean ====
section
/-! SUPPORT. Per instruction: its canonical encoding lies in its row of `spec/opcode_table.json`. -/

namespace Sys2Proof.Laws

/-- A row's mask and match on byte 2 (bits 23..16 of the table's word); every row's mask is 0 below. -/
def rowOf : Instr → Byte × Byte
  | .ldi _ _ => (0xF0, 0x10)
  | .ld _ _ => (0xF0, 0x20)
  | .st _ _ => (0xF0, 0x30)
  | .add _ _ => (0xF0, 0x40)
  | .sub _ _ => (0xF0, 0x50)
  | .and _ _ => (0xF0, 0x60)
  | .or _ _ => (0xF0, 0x70)
  | .mov _ _ => (0xF0, 0x80)
  | .cmp _ _ => (0xF0, 0x90)
  | .jmp _ => (0xF0, 0xA0)
  | .jz _ => (0xF0, 0xB0)
  | .jnz _ => (0xF0, 0xC0)
  | .addi _ _ => (0xF0, 0xD0)
  | .call _ => (0xF0, 0xE0)
  | .hlt => (0xF0, 0xF0)
  | .nop => (0xFF, 0x00)
  | .cli => (0xFF, 0x04)
  | .sti => (0xFF, 0x08)
  | .rti => (0xFF, 0x0C)
  | .push _ => (0xF3, 0x01)
  | .pop _ => (0xF3, 0x02)
  | .ret => (0xFF, 0x03)
  | .swi _ => (0xFF, 0x07)
  | .reserved0B => (0xFF, 0x0B)
  | .reserved0F => (0xFF, 0x0F)

/-- The encoding is three bytes long and its byte 2 lies in the instruction's row. -/
def EncodedRow.Statement (i : Instr) : Prop :=
  ∃ b0 b1 b2, encode i = [b0, b1, b2] ∧ b2 &&& (rowOf i).1 = (rowOf i).2

namespace EncodedRow

theorem ldi (rd : Reg) (imm : Byte) : Statement (.ldi rd imm) := ⟨_, _, _, rfl, by cases rd <;> simp only [rowOf] <;> decide⟩
theorem ld (rd : Reg) (a : Addr) : Statement (.ld rd a) := ⟨_, _, _, rfl, by cases rd <;> simp only [rowOf] <;> decide⟩
theorem st (a : Addr) (rd : Reg) : Statement (.st a rd) := ⟨_, _, _, rfl, by cases rd <;> simp only [rowOf] <;> decide⟩
theorem add (rd rs : Reg) : Statement (.add rd rs) := ⟨_, _, _, rfl, by cases rd <;> cases rs <;> simp only [rowOf] <;> decide⟩
theorem sub (rd rs : Reg) : Statement (.sub rd rs) := ⟨_, _, _, rfl, by cases rd <;> cases rs <;> simp only [rowOf] <;> decide⟩
theorem and (rd rs : Reg) : Statement (.and rd rs) := ⟨_, _, _, rfl, by cases rd <;> cases rs <;> simp only [rowOf] <;> decide⟩
theorem or (rd rs : Reg) : Statement (.or rd rs) := ⟨_, _, _, rfl, by cases rd <;> cases rs <;> simp only [rowOf] <;> decide⟩
theorem mov (rd rs : Reg) : Statement (.mov rd rs) := ⟨_, _, _, rfl, by cases rd <;> cases rs <;> simp only [rowOf] <;> decide⟩
theorem cmp (rd rs : Reg) : Statement (.cmp rd rs) := ⟨_, _, _, rfl, by cases rd <;> cases rs <;> simp only [rowOf] <;> decide⟩
theorem jmp (a : Addr) : Statement (.jmp a) := ⟨_, _, _, rfl, by simp only [rowOf]; decide⟩
theorem jz (a : Addr) : Statement (.jz a) := ⟨_, _, _, rfl, by simp only [rowOf]; decide⟩
theorem jnz (a : Addr) : Statement (.jnz a) := ⟨_, _, _, rfl, by simp only [rowOf]; decide⟩
theorem addi (rd : Reg) (imm : Byte) : Statement (.addi rd imm) := ⟨_, _, _, rfl, by cases rd <;> simp only [rowOf] <;> decide⟩
theorem call (a : Addr) : Statement (.call a) := ⟨_, _, _, rfl, by simp only [rowOf]; decide⟩
theorem hlt : Statement .hlt := ⟨_, _, _, rfl, by simp only [rowOf]; decide⟩
theorem nop : Statement .nop := ⟨_, _, _, rfl, by simp only [rowOf]; decide⟩
theorem cli : Statement .cli := ⟨_, _, _, rfl, by simp only [rowOf]; decide⟩
theorem sti : Statement .sti := ⟨_, _, _, rfl, by simp only [rowOf]; decide⟩
theorem rti : Statement .rti := ⟨_, _, _, rfl, by simp only [rowOf]; decide⟩
theorem push (rd : Reg) : Statement (.push rd) := ⟨_, _, _, rfl, by cases rd <;> simp only [rowOf] <;> decide⟩
theorem pop (rd : Reg) : Statement (.pop rd) := ⟨_, _, _, rfl, by cases rd <;> simp only [rowOf] <;> decide⟩
theorem ret : Statement .ret := ⟨_, _, _, rfl, by simp only [rowOf]; decide⟩
theorem swi (n : Byte) : Statement (.swi n) := ⟨_, _, _, rfl, by simp only [rowOf]; decide⟩
theorem reserved0B : Statement .reserved0B := ⟨_, _, _, rfl, by simp only [rowOf]; decide⟩
theorem reserved0F : Statement .reserved0F := ⟨_, _, _, rfl, by simp only [rowOf]; decide⟩

end EncodedRow

end Sys2Proof.Laws
end

