-- ==== Sys2Proof/Tests/Slice0.lean ====
section
/-! SUPPORT. Tests of the model against words and vectors written from the spec, and a witness for every
statement that has hypotheses. Expected values come from `spec/95_test_vectors.md` (named at each test) or from
the encodings of `spec/30_encoding.md` sections 1 and 2. -/

namespace Sys2Proof.Tests

open Sys2Proof Sys2Proof.Machine

/-- The next state of an outcome, if there is one. -/
def nextOf (o : Host.Outcome State Fault Refusal) : Option State :=
  match o with
  | .next t => some t
  | _ => none

/-- What refused an outcome, if something did. -/
def refusalOf (o : Host.Outcome State Fault Refusal) : Option Refusal :=
  match o with
  | .refused r => some r
  | _ => none

/-- One step that runs the instruction word `w` at `s`'s program counter. -/
def run1 (s : State) (w : Nat) : Option State := nextOf (step (s.withFetchWord 24 w))

/-- The reset state with two registers set. -/
def regs (a b : Byte) : State := State.reset.setX ⟨a, b, 0, 0⟩

/-- A state mid-run: stack in the middle of RAM, both flags and two requests set, devices busy. -/
def busy : State :=
  { State.reset with
    x := ⟨0x12, 0x34, 0x56, 0x78⟩, pc := 0x0456, sp := 0x8000, z := true, ie := true, pend := 0x06
    tmr := ⟨5, 3, true, true⟩, uart := ⟨[0x41, 0x42], [0x48]⟩ }

/-! ## Well-formedness: one ill-formed term for each check -/

theorem test_wellFormed_refuses_reserved0B : Instr.wellFormed .reserved0B = false := by decide
theorem test_wellFormed_refuses_reserved0F : Instr.wellFormed .reserved0F = false := by decide
theorem test_wellFormed_accepts_swi : Instr.wellFormed (.swi 0xFF) = true := by decide

/-! ## Decoding: every constructor's word bit by bit, `opcode rd rs` then byte 1 then byte 0 -/

theorem test_decode_ldi : decodeTableWord 24 0b0001_01_00_00000000_11111111 = some (.ldi .r1 0xFF) := by decide
theorem test_decode_ld : decodeTableWord 24 0b0010_11_00_00010000_00000001 = some (.ld .r3 0x1001) := by decide
theorem test_decode_st : decodeTableWord 24 0b0011_10_00_11110000_00000010 = some (.st 0xF002 .r2) := by decide
theorem test_decode_add : decodeTableWord 24 0b0100_00_01_00000000_00000000 = some (.add .r0 .r1) := by decide
theorem test_decode_sub : decodeTableWord 24 0b0101_10_11_00000000_00000000 = some (.sub .r2 .r3) := by decide
theorem test_decode_and : decodeTableWord 24 0b0110_01_10_00000000_00000000 = some (.and .r1 .r2) := by decide
theorem test_decode_or : decodeTableWord 24 0b0111_11_00_00000000_00000000 = some (.or .r3 .r0) := by decide
theorem test_decode_mov : decodeTableWord 24 0b1000_10_00_00000000_00000000 = some (.mov .r2 .r0) := by decide
theorem test_decode_cmp : decodeTableWord 24 0b1001_00_11_00000000_00000000 = some (.cmp .r0 .r3) := by decide
theorem test_decode_jmp : decodeTableWord 24 0b1010_00_00_10000000_00001001 = some (.jmp 0x8009) := by decide
theorem test_decode_jz : decodeTableWord 24 0b1011_00_00_00000000_00001111 = some (.jz 0x000F) := by decide
theorem test_decode_jnz : decodeTableWord 24 0b1100_00_00_00000001_00000110 = some (.jnz 0x0106) := by decide
theorem test_decode_addi : decodeTableWord 24 0b1101_11_00_00000000_01100100 = some (.addi .r3 0x64) := by decide
theorem test_decode_call : decodeTableWord 24 0b1110_00_00_00100000_00001010 = some (.call 0x200A) := by decide
theorem test_decode_hlt : decodeTableWord 24 0b1111_00_00_00000000_00000000 = some .hlt := by decide
theorem test_decode_nop : decodeTableWord 24 0b0000_00_00_00000000_00000000 = some .nop := by decide
theorem test_decode_cli : decodeTableWord 24 0b0000_01_00_00000000_00000000 = some .cli := by decide
theorem test_decode_sti : decodeTableWord 24 0b0000_10_00_00000000_00000000 = some .sti := by decide
theorem test_decode_rti : decodeTableWord 24 0b0000_11_00_00000000_00000000 = some .rti := by decide
theorem test_decode_push : decodeTableWord 24 0b0000_11_01_00000000_00000000 = some (.push .r3) := by decide
theorem test_decode_pop : decodeTableWord 24 0b0000_01_10_00000000_00000000 = some (.pop .r1) := by decide
theorem test_decode_ret : decodeTableWord 24 0b0000_00_11_00000000_00000000 = some .ret := by decide
theorem test_decode_swi : decodeTableWord 24 0b0000_01_11_00000000_00000010 = some (.swi 2) := by decide
theorem test_decode_reserved0B :
    decodeTableWord 24 0b0000_10_11_00000000_00000000 = some .reserved0B := by decide
theorem test_decode_reserved0F :
    decodeTableWord 24 0b0000_11_11_00000000_00000000 = some .reserved0F := by decide

/-- Ignored fields (R107): the vectors of sections 2.6 to 2.10. -/
theorem test_decode_ignores_fields :
    decodeTableWord 24 0xAF0009 = some (.jmp 9) ∧ decodeTableWord 24 0xD07F01 = some (.addi .r0 1) ∧
    decodeTableWord 24 0xFF0000 = some .hlt ∧ decodeTableWord 24 0x03ABCD = some .ret ∧
    decodeTableWord 24 0x003412 = some .nop := by decide

/-- Two bytes are no instruction (R90). -/
theorem test_decode_truncated : decode [0x05, 0x00] = .error .truncated := rfl

/-- Encodings of scenarios 1, 4 and 6. -/
theorem test_encode_scenarios :
    encode (.add .r0 .r1) = [0x00, 0x00, 0x41] ∧ encode (.st 0x1000 .r0) = [0x00, 0x10, 0x30] ∧
    encode (.ld .r1 0x1000) = [0x00, 0x10, 0x24] ∧ encode (.swi 2) = [0x02, 0x00, 0x07] := by decide

/-! ## One step of each instruction -/

/-- Section 2.1: LDI writes no flag. -/
theorem test_ldi_sets_register :
    (run1 (busy.setPend 0) 0x1C00AB).map (fun t => (t.reg .r3, t.reg .r0, t.z, t.pc)) =
      some (0xAB, 0x12, true, 0x0459) := by decide

/-- Section 2.1: a read of the UART data register dequeues. -/
theorem test_ld_uart_dequeues :
    (run1 (busy.setPend 0) 0x24F002).map (fun t => (t.reg .r1, t.uart.rx)) = some (0x41, [0x42]) := by decide

theorem test_ld_ram :
    (run1 (State.reset.memWrite 0x1000 0x4D) 0x241000).map (fun t => (t.reg .r1, t.z)) =
      some (0x4D, false) := by decide

theorem test_st_ram :
    (run1 ((regs 0x4D 0).memWrite 0x1001 0x99) 0x301000).map (fun t => (t.byteAt 0x1000, t.byteAt 0x1001)) =
      some (0x4D, 0x99) := by decide

/-- Section 3.4: writing 0xFF to the timer's register 1 enables and acknowledges. -/
theorem test_st_timer_control :
    (run1 ((regs 0xFF 0).setTmr ⟨3, 3, false, true⟩) 0x30F001).map (fun t => t.tmr) =
      some ⟨3, 3, true, false⟩ := by decide

/-- Section 2.2: carry and zero together. -/
theorem test_add_wraps :
    (run1 (regs 0xFF 0x01) 0x410000).map (fun t => (t.reg .r0, t.c, t.z)) = some (0x00, true, true) := by decide

/-- Section 2.2: both reads of `ADD R1, R1` see the old value. -/
theorem test_add_same_register :
    (run1 (regs 0 0x81) 0x450000).map (fun t => (t.reg .r1, t.c, t.z)) = some (0x02, true, false) := by decide

/-- Section 2.3: a borrow clears C. -/
theorem test_sub_borrow :
    (run1 (regs 0x03 0x05) 0x510000).map (fun t => (t.reg .r0, t.c, t.z)) = some (0xFE, false, false) := by decide

theorem test_sub_zero_minus_zero :
    (run1 (regs 0x00 0x00) 0x510000).map (fun t => (t.reg .r0, t.c, t.z)) = some (0x00, true, true) := by decide

/-- Section 2.4: the carry is cleared. -/
theorem test_and_clears_carry :
    (run1 ((regs 0x3C 0).setFlags true true) 0x600000).map (fun t => (t.reg .r0, t.c, t.z)) =
      some (0x3C, false, false) := by decide

theorem test_or_fills :
    (run1 (regs 0xF0 0x0F) 0x710000).map (fun t => (t.reg .r0, t.c, t.z)) = some (0xFF, false, false) := by decide

/-- Section 2.1: MOV R2, R0 writes no flag. -/
theorem test_mov_copies :
    (run1 ((regs 0x2A 0).setFlags true true) 0x880000).map (fun t => (t.reg .r2, t.reg .r0, t.z, t.c)) =
      some (0x2A, 0x2A, true, true) := by decide

/-- Section 2.6. -/
theorem test_cmp_less :
    (run1 (regs 0x03 0x05) 0x910000).map (fun t => (t.reg .r0, t.c, t.z)) = some (0x03, false, false) := by decide

/-- Section 2.6: a decrement below zero wraps and clears C. -/
theorem test_addi_decrement_below_zero :
    (run1 (regs 0 0x00) 0xD400FF).map (fun t => (t.reg .r1, t.c, t.z)) = some (0xFF, false, false) := by decide

theorem test_addi_decrement_to_zero :
    (run1 (regs 0 0x01) 0xD400FF).map (fun t => (t.reg .r1, t.c, t.z)) = some (0x00, true, true) := by decide

/-- Section 2.7. -/
theorem test_jmp_into_io : (run1 (State.reset.setPc 3) 0xA0F000).map (fun t => t.pc) = some 0xF000 := by decide

theorem test_jz_taken_and_not :
    (run1 ((State.reset.setPc 9).setFlags true false) 0xB0000F).map (fun t => t.pc) = some 0x000F ∧
    (run1 (State.reset.setPc 9) 0xB0000F).map (fun t => t.pc) = some 0x000C := by decide

theorem test_jnz_taken_and_not :
    (run1 (State.reset.setPc 12) 0xC00006).map (fun t => t.pc) = some 0x0006 ∧
    (run1 ((State.reset.setPc 12).setFlags true false) 0xC00006).map (fun t => t.pc) = some 0x000F := by decide

/-- Section 2.8: the return address of a CALL at 0x12FD. -/
theorem test_call_pushes :
    (run1 ((State.reset.setPc 0x12FD).setSp 0x8000) 0xE02000).map
      (fun t => (t.byteAt 0x7FFF, t.byteAt 0x7FFE, t.sp, t.pc)) = some (0x13, 0x00, 0x7FFE, 0x2000) := by decide

/-- Section 2.8: a RET on an empty reset stack takes its high byte from the timer. -/
theorem test_ret_empty_stack :
    (run1 ((State.reset.memWrite 0xEFFF 0x34).setTmr ⟨0x12, 0, false, false⟩) 0x030000).map
      (fun t => (t.pc, t.sp)) = some (0x1234, 0xF001) := by decide

theorem test_ret_pops_low_first :
    (run1 (((State.reset.memWrite 0xEFFD 0x34).memWrite 0xEFFE 0x12).setSp 0xEFFD) 0x030000).map
      (fun t => (t.pc, t.sp)) = some (0x1234, 0xEFFF) := by decide

/-- Section 2.9. -/
theorem test_push_from_reset :
    (run1 ((regs 0xAA 0).memWrite 0xEFFF 0x99) 0x010000).map
      (fun t => (t.byteAt 0xEFFE, t.byteAt 0xEFFF, t.sp)) = some (0xAA, 0x99, 0xEFFE) := by decide

theorem test_push_into_uart :
    (run1 ((regs 0x48 0).setSp 0xF003) 0x010000).map (fun t => (t.uart.tx, t.sp)) =
      some ([0x48], 0xF002) := by decide

theorem test_pop_ram :
    (run1 ((State.reset.memWrite 0xEFFD 0x55).setSp 0xEFFD) 0x020000).map
      (fun t => (t.reg .r0, t.sp, t.byteAt 0xEFFD)) = some (0x55, 0xEFFE, 0x55) := by decide

theorem test_pop_uart :
    (run1 ((State.reset.setSp 0xF002).setUart ⟨[0x5A], []⟩) 0x0E0000).map
      (fun t => (t.reg .r3, t.uart.rx, t.sp)) = some (0x5A, [], 0xF003) := by decide

/-- Section 2.10. -/
theorem test_nop_advances :
    (run1 (State.reset.setPc 6) 0x000000).map (fun t => t.pc) = some 0x0009 := by decide

theorem test_cli_keeps_pend :
    (run1 ((State.reset.setIe true).setHalted false) 0x040000).map (fun t => (t.ie, t.pend)) =
      some (false, 0) := by decide

theorem test_sti_then_dispatch :
    (run1 (State.reset.setPend 0x02) 0x080000).map (fun t => (t.ie, t.pend)) = some (true, 0x02) ∧
    ((run1 (State.reset.setPend 0x02) 0x080000).bind (fun t => nextOf (step t))).map
      (fun t => (t.ie, t.pend, t.sp)) = some (false, 0x00, 0xEFFC) := by decide

theorem test_hlt_at_9 :
    (run1 (State.reset.setPc 9) 0xF00000).map (fun t => (t.halted, t.pc)) = some (true, 0x000C) := by decide

/-- Program P6, step 7: RTI as a jump that loads the flags. -/
theorem test_rti_from_pushed_frame :
    (run1 ((State.reset.hostLoad [0x03, 0x34, 0x12] 0xEFFC).setSp 0xEFFC) 0x0C0000).map
      (fun t => ((t.z, t.c, t.ie), t.pc, t.sp)) = some ((true, true, false), 0x1234, 0xEFFF) := by decide

/-- V-INT-SWI-IE0. -/
theorem test_swi_not_masked :
    (run1 (((State.reset.hostLoad [0x00, 0x01] 0xEFF4).setPc 6).setFlags true true) 0x070002).map
      (fun t => (t.byteAt 0xEFFE, t.byteAt 0xEFFD, t.byteAt 0xEFFC, t.ie, t.pc)) =
      some (0x00, 0x09, 0x03, false, 0x0100) := by decide

/-- V-INT-7: the vector is read after the frame has overwritten its low byte. -/
theorem test_swi7_reads_its_frame :
    (run1 (((State.reset.hostLoad [0x56, 0x34] 0xEFFE).setPc 0x1200).setFlags true false) 0x070007).map
      (fun t => (t.byteAt 0xEFFE, t.pc)) = some (0x12, 0x3412) := by decide

/-- Section 2.10: the reserved encodings are refused, by name. -/
theorem test_reserved_refused :
    refusalOf (step (State.reset.withFetchWord 24 0x0B0000)) = some .reservedEncoding0B ∧
    refusalOf (step (State.reset.withFetchWord 24 0x0FABCD)) = some .reservedEncoding0F := by decide

/-! ## The step around an instruction -/

/-- R243: with nothing loaded, the machine fetches whatever RAM holds at power-on. -/
theorem test_reset_fetches_ram_init :
    State.reset.fetch.ir = ⟨Config.ramInit 0, Config.ramInit 1, Config.ramInit 2⟩ := rfl

/-- V-INT-RT, step 1, with IVT[3] = 0x3000: the dispatch fetches nothing. -/
theorem test_dispatch_frame :
    (nextOf (step ((busy.setPend 0x08).setTmr ⟨0, 0, false, false⟩ |>.hostLoad [0x00, 0x30] 0xEFF6))).map
      (fun t => (t.byteAt 0x7FFF, t.byteAt 0x7FFE, t.byteAt 0x7FFD, t.sp, t.pc, t.pend)) =
      some (0x04, 0x56, 0x05, 0x7FFD, 0x3000, 0x00) := by decide

/-- V-INT-PRIO: of 1 and 2 the step takes 1. -/
theorem test_dispatch_priority :
    (nextOf (cpuStep busy)).map (fun t => (t.pend, t.ie)) = some (0x04, false) := by decide

/-- The tick comes before the step: scenario 7, iteration 10. -/
theorem test_tick_then_dispatch :
    (nextOf (step ((State.reset.setIe true).setTmr ⟨5, 1, true, false⟩))).map (fun t => (t.tmr, t.pend, t.sp)) =
      some (⟨5, 5, true, true⟩, 0x00, 0xEFFC) := by decide

/-- Section 2.12: a fetch across the end of RAM reads the timer. -/
theorem test_fetch_reads_devices :
    (nextOf (step ((State.reset.hostLoad [0x07, 0x00] 0xEFFE |>.setPc 0xEFFE).setTmr ⟨0x10, 0, false, false⟩))).map
      (fun t => (t.reg .r0, t.pc)) = some (0x07, 0xF001) := by decide

/-- Section 2.12: the program counter wraps. -/
theorem test_fetch_wraps :
    (nextOf (step (State.reset.setPc 0xFFFD))).map (fun t => t.pc) = some 0x0000 := by decide

/-- Section 3.6: what a reset keeps. -/
theorem test_reset_keeps :
    (busy.hostReset.pc, busy.hostReset.sp, busy.hostReset.pend, busy.hostReset.x, busy.hostReset.tmr) =
      (0x0000, 0xEFFF, 0x00, ⟨0x12, 0x34, 0x56, 0x78⟩, ⟨5, 3, true, true⟩) := by decide

/-- Program P4: the host pushes a byte before the step that dispatches it. -/
theorem test_host_push_dispatches :
    (nextOf (step ((State.reset.setIe true).setHostPlan [[.pushRx 0x41]]))).map
      (fun t => (t.uart.rx, t.pend, t.sp, t.hostPlan)) = some ([0x41], 0x00, 0xEFFC, []) := by decide

/-- Section 2.11: the D flip-flop's five calls. -/
theorem test_flip_flop_sequence :
    [(false, true), (true, true), (true, false), (false, false), (true, false)].foldl
      (fun (acc : DFlipFlop × List Bool) p =>
        (dffClock acc.1 p.1 p.2, acc.2 ++ [(dffClock acc.1 p.1 p.2).slave])) (⟨false, false⟩, []) =
      (⟨false, false⟩, [false, true, true, true, false]) := by decide

/-- Section 2.0: XOR and the full adder. -/
theorem test_full_adder :
    gateXor true true = false ∧ gateXor true false = true ∧ fullAdder true true true = (true, true) ∧
    fullAdder false true true = (false, true) ∧ fullAdder false false true = (true, false) := by decide

/-! ## A witness for the hypotheses of each statement that has some -/

theorem witness_UnusedFieldsAreIgnored :
    (0x9#4 ∈ [0x4#4, 0x5#4, 0x6#4, 0x7#4, 0x8#4, 0x9#4]) ∧ (0xD#4 ∈ [0x1#4, 0xD#4]) ∧
    (0x3#4 ∈ [0x2#4, 0x3#4]) ∧ (0xE#4 ∈ [0xA#4, 0xB#4, 0xC#4, 0xE#4]) ∧
    (2#2 ≠ 3#2 ∨ 1#2 = 0#2) ∧ (3#2 ≠ 3#2 ∨ 0#2 = 0#2) := by decide

theorem witness_StepRunsDecodedInstruction :
    let s := State.reset.hostLoad [0x00, 0x00, 0x14] 0
    s.hostPlan = [] ∧ s.halted = false ∧ s.timerTick.dispatchable = none ∧
      decode [s.byteAt 0, s.byteAt 1, s.byteAt 2] = .ok (.ldi .r1 0x00, []) ∧
      Instr.wellFormed (.ldi .r1 0x00) = true := ⟨rfl, rfl, rfl, rfl, rfl⟩

theorem witness_DispatchTakesLowestPending :
    busy.halted = false ∧ busy.ie = true ∧ busy.pend ≠ 0#8 := by decide

theorem witness_HaltIsLeftOnlyByReset :
    (State.reset.setHalted true).halted = true ∧ Instr.nop ≠ .hlt ∧ exec .nop busy = .next busy ∧
    ((State.reset.setHalted true).setHostPlan [[.load [0, 0, 0] 0, .reset]]).halted = true ∧
    (nextOf (step ((State.reset.setHalted true).setHostPlan [[.load [0, 0, 0] 0, .reset]]))).map
      (fun t => t.halted) = some false := ⟨rfl, by decide, rfl, rfl, rfl⟩

/-- Every address clause of the bus statements, at the ends of its range. -/
theorem witness_BusRoutesAccesses :
    (0x0000#16).toNat ≤ 0xEFFF ∧ (0xEFFF#16).toNat ≤ 0xEFFF ∧ 0xF003 ≤ (0xF003#16).toNat ∧
    0xF003 ≤ (0xFFFF#16).toNat ∧ 0xF004 ≤ (0xF004#16).toNat ∧ 0xF004 ≤ (0xFFFF#16).toNat := by decide

theorem witness_LdReadsTheBus :
    [0xEFFF#16, 0xF000#16, 0xF001#16, 0xF002#16, 0xF003#16, 0xF004#16].map
      (fun a => (nextOf (exec (.ld .r0 a) (busy.memWrite 0xEFFF 0x99))).map (fun t => t.reg .r0)) =
      [some 0x99, some 5, some 3, some 0x41, some 3, some 0] := by decide

theorem witness_StWritesTheBus :
    [0xEFFF#16, 0xF000#16, 0xF001#16, 0xF002#16, 0xF003#16].map
      (fun a => (nextOf (exec (.st a .r0) busy)).map (fun t => (t.ram, t.tmr, t.uart.tx))) =
      [some ([(0xEFFF, 0x12)], ⟨5, 3, true, true⟩, [0x48]), some ([], ⟨0x12, 0x12, true, true⟩, [0x48]),
       some ([], ⟨5, 3, true, false⟩, [0x48]), some ([], ⟨5, 3, true, true⟩, [0x48, 0x12]),
       some ([], ⟨5, 3, true, true⟩, [0x48])] ∧ 0xEFFE#16 ≠ 0xEFFF#16 := by decide

theorem witness_JzJnzTestZeroFlag : busy.z = true ∧ State.reset.z = false := by decide

/-- The frames that just fit at both ends of RAM, and one in its middle. -/
theorem witness_CallPushesReturnAddress :
    [0xF000#16, 0x0002#16, busy.sp].all
      (fun sp => decide ((sp - 1#16).toNat ≤ 0xEFFF ∧ (sp - 2#16).toNat ≤ 0xEFFF)) = true ∧
    [0xF000#16, 0x0003#16, busy.sp, State.reset.sp].all (fun sp => decide ((sp - 1#16).toNat ≤ 0xEFFF ∧
      (sp - 2#16).toNat ≤ 0xEFFF ∧ (sp - 3#16).toNat ≤ 0xEFFF)) = true := by decide

theorem witness_PushWritesBelowSp :
    (0xF000#16 - 1#16).toNat ≤ 0xEFFF ∧ (0x0001#16 - 1#16).toNat ≤ 0xEFFF ∧
    0x0000#16 ≠ 0xF000#16 - 1#16 := by decide

theorem witness_PopReadsAtSp :
    (0xEFFF#16).toNat ≤ 0xEFFF ∧ (0x0000#16).toNat ≤ 0xEFFF ∧ 0xF001#16 ≠ 0xF002#16 := by decide

theorem witness_CliStiSetInterruptEnable :
    (nextOf (exec .cli busy)).map (fun t => t.halted) = some false ∧
    (nextOf (exec .sti busy)).map (fun t => (t.halted, decide (t.pend ≠ 0#8))) = some (false, true) := by decide

theorem witness_RamReadReturnsLatestWrite :
    (0xEFFF#16).toNat ≤ 0xEFFF ∧
    ∀ w ∈ [((0xEFFE#16 : Addr), (1#8 : Byte)), (0xF000#16, 2#8)], w.1 ≠ 0xEFFF#16 := by simp

theorem witness_TimerTickCountsDown :
    State.reset.tmr.enable = false ∧ (busy.tmr.enable = true ∧ busy.tmr.counter ≠ 1#8) ∧
    (busy.setTmr ⟨5, 1, true, false⟩).tmr.enable = true ∧
    (busy.setTmr ⟨5, 1, true, false⟩).tmr.counter = 1#8 := by decide

/-- Reload 3, and reload 0 with its period of 256. -/
theorem witness_TimerPeriodIsReload :
    let t : Timer := ⟨3, 3, true, false⟩
    let u : Timer := ⟨0, 0, true, false⟩
    t.enable = true ∧ t.counter = t.reload ∧ u.enable = true ∧ u.counter = u.reload ∧
    2 < (if t.reload = 0#8 then 256 else t.reload.toNat) ∧
    255 < (if u.reload = 0#8 then 256 else u.reload.toNat) := by decide

theorem witness_RaiseInterruptSetsPendingBit :
    (busy.raiseInterrupt 7).pend = 0x86 ∧ (busy.raiseInterrupt 0).pend = 0x07 ∧
    (busy.raiseInterrupt 8).pend = 0x06 := by decide

theorem witness_InterruptFrameLayout :
    (busy.sp - 1#16).toNat ≤ 0xEFFF ∧ (busy.sp - 2#16).toNat ≤ 0xEFFF ∧ (busy.sp - 3#16).toNat ≤ 0xEFFF := by
  decide

theorem witness_InterruptRoundTripRestores :
    (busy.sp - 1#16).toNat ≤ 0xEFFF ∧ (busy.sp - 2#16).toNat ≤ 0xEFFF ∧ (busy.sp - 3#16).toNat ≤ 0xEFFF ∧
    ((busy.enterInterrupt 3).setReg .r0 9).sp = (busy.enterInterrupt 3).sp ∧
    ∀ k ∈ [1#16, 2#16, 3#16],
      ((busy.enterInterrupt 3).setReg .r0 9).byteAt (busy.sp - k) =
        (busy.enterInterrupt 3).byteAt (busy.sp - k) :=
  ⟨by decide, by decide, by decide, State.setReg_sp _ _ _, fun _ _ =>
    State.byteAt_congr (State.setReg_ram _ _ _) (State.setReg_tmr _ _ _) (State.setReg_uart _ _ _) _⟩

theorem witness_VectorsReadAfterTheFrame :
    State.reset.sp = 0xEFFF#16 ∧ (0#8).toNat ≤ 5 ∧ (5#8).toNat ≤ 5 ∧ ¬ (6#8).toNat ≤ 5 := by decide

/-- Section 3.3: SWI 8, 9 and 10 with the devices' answers. -/
theorem witness_SwiBeyondTableReadsDevices :
    [8#8, 9#8, 10#8, 255#8].map (fun n => (nextOf (exec (.swi n) busy)).map (fun t => (t.pc, t.uart.rx))) =
      [some (0x0305, [0x41, 0x42]), some (0x0341, [0x42]), some (0x0000, [0x41, 0x42]),
       some (0x0000, [0x41, 0x42])] ∧
    (busy.sp - 1#16).toNat ≤ 0xEFFF ∧ (busy.sp - 2#16).toNat ≤ 0xEFFF ∧ (busy.sp - 3#16).toNat ≤ 0xEFFF := by
  decide

theorem witness_FlagsWrittenOnlyByAluAndRti :
    exec (.jz 9) State.reset = .next State.reset ∧ exec .cli busy = .next (busy.setIe false) := ⟨rfl, rfl⟩

theorem witness_FlagsReadOnlyByJumpsAndEntry :
    (∀ n, Instr.sti ≠ .swi n) ∧ (∀ a, Instr.sti ≠ .jz a) ∧ (∀ a, Instr.sti ≠ .jnz a) ∧
    exec .sti busy = .next (busy.setIe true) :=
  ⟨fun _ h => Instr.noConfusion h, fun _ h => Instr.noConfusion h, fun _ h => Instr.noConfusion h, rfl⟩

theorem witness_AtMostRdIsWritten : exec (.ldi .r1 7) busy = .next (busy.setReg .r1 7) := rfl

theorem witness_SpMovesOnlyByPushAndPop : exec (.push .r0) busy = .next (busy.push8 0x12) := rfl

theorem witness_InterruptEnableWriters :
    exec .sti State.reset = .next (State.reset.setIe true) ∧ State.reset.halted = false ∧
    State.reset.ie = false := ⟨rfl, rfl, rfl⟩

theorem witness_PendingMaskUnseenByInstructions :
    exec .nop busy = .next busy ∧ 0 ≤ 7 ∧ 7 ≤ 7 := ⟨rfl, by decide, by decide⟩

theorem witness_EveryInstructionCompletes : Instr.wellFormed .rti = true := rfl

theorem witness_StepKeepsCanonicalRam :
    (busy.memWrite 0xEFFF 0x99).inv = true ∧
    (nextOf (step (busy.memWrite 0xEFFF 0x99))).isSome = true := by decide

theorem witness_RunsFromInvariantAreSafe : State.reset.inv = true := rfl

/-- Loads that end at the end of RAM and of the I/O-free range, and the addresses around one. -/
theorem witness_LoadProgramWritesBytes :
    (0xEFFE#16).toNat + [1#8, 2#8].length ≤ 0xF000 ∧ 1 < [1#8, 2#8].length ∧
    (0xEFFD#16).toNat ≤ 0xEFFF ∧ (0xEFFD#16).toNat < (0xEFFE#16).toNat ∧
    (0x0010#16).toNat + [1#8, 2#8].length ≤ (0x0012#16).toNat := by decide

theorem witness_StepsAreTheDriverLoop :
    let s := State.reset.hostLoad [0, 0, 0, 0, 0, 0xF0] 0
    s.hostPlan = [] ∧ ∃ t, runLoop 2 s = .next t := ⟨rfl, _, rfl⟩

theorem witness_PlacedWordRunsNext :
    0xF00000 < 2 ^ 24 ∧ decodeTableWord 24 0xF00000 = some .hlt := by decide

theorem witness_RippleAdderAdds : [true, false].length = [true, true].length := rfl

theorem witness_RegisterLoadsAndHolds :
    [true, false].length = (registerOf [false, false]).length ∧
    ∀ p ∈ [(false, [true, true]), (true, [false, true])], p.2.length = (registerOf [false, false]).length := by
  decide

theorem witness_DecoderIsOneHot : 3 < 2 ^ [true, true].length := by decide

theorem witness_InstructionsMatchDatapath :
    let add := State.reset.setIr ⟨0, 0, 0x41⟩
    let call := State.reset.setIr ⟨9, 0, 0xE0⟩
    let nop := State.reset.setIr ⟨0, 0, 0x00⟩
    opcodeField add.ir.b2 ≠ 0x0#4 ∧ opcodeField add.ir.b2 ≠ 0xE#4 ∧ opcodeField call.ir.b2 = 0xE#4 ∧
    opcodeField nop.ir.b2 = 0x0#4 := by decide

end Sys2Proof.Tests
end

section
/-! SUPPORT. The execute part as a function: what an instruction makes of a state, once per instruction. -/

namespace Sys2Proof.Machine

/-- What instruction `i` makes of `s`, the state after the fetch; `exec_next_iff` ties it to `exec`. The reserved
encodings make nothing of it. JZ and JNZ write `pc` in both cases, so that every other field is kept by form. -/
@[simp] def nextState (i : Instr) (s : State) : State :=
  match i with
  | .ldi rd imm => s.setReg rd imm
  | .ld rd addr => (s.memRead addr).2.setReg rd (s.memRead addr).1
  | .st addr rd => s.memWrite addr (s.reg rd)
  | .add rd rs => s.writeAlu rd (alu .add (s.reg rd) (s.reg rs))
  | .sub rd rs => s.writeAlu rd (alu .sub (s.reg rd) (s.reg rs))
  | .and rd rs => s.writeAlu rd (alu .and (s.reg rd) (s.reg rs))
  | .or rd rs => s.writeAlu rd (alu .or (s.reg rd) (s.reg rs))
  | .mov rd rs => s.setReg rd (s.reg rs)
  | .cmp rd rs => s.latchFlags (alu .sub (s.reg rd) (s.reg rs))
  | .jmp target => s.setPc target
  | .jz target => s.setPc (if s.z then target else s.pc)
  | .jnz target => s.setPc (if s.z then s.pc else target)
  | .addi rd imm => s.writeAlu rd (alu .add (s.reg rd) imm)
  | .call target => (s.push16 s.pc).setPc target
  | .hlt => s.setHalted true
  | .nop | .reserved0B | .reserved0F => s
  | .cli => s.setIe false
  | .sti => s.setIe true
  | .rti => s.returnFromInterrupt
  | .push rd => s.push8 (s.reg rd)
  | .pop rd => s.pop8.2.setReg rd s.pop8.1
  | .ret => s.pop16.2.setPc s.pop16.1
  | .swi n => s.enterInterrupt n

/-- A well-formed instruction completes, with `nextState`. -/
theorem exec_of_wellFormed {i : Instr} (h : i.wellFormed = true) (s : State) :
    exec i s = .next (nextState i s) := by
  cases i
  case jz target => cases hz : s.z <;> simp [exec, execJz, hz]; all_goals rfl
  case jnz target => cases hz : s.z <;> simp [exec, execJnz, hz]; all_goals rfl
  case reserved0B | reserved0F => exact absurd h Bool.false_ne_true
  all_goals rfl

/-- Exactly the well-formed instructions complete, and `nextState` is the state they leave. -/
theorem exec_next_iff {i : Instr} {s t : State} :
    exec i s = .next t ↔ i.wellFormed = true ∧ t = nextState i s := by
  constructor
  · intro h
    cases hw : i.wellFormed with
    | true =>
      rw [exec_of_wellFormed hw] at h
      exact ⟨rfl, (Host.Outcome.next.inj h).symm⟩
    | false =>
      cases i
      case reserved0B | reserved0F => cases h
      all_goals cases hw
  · rintro ⟨hw, rfl⟩
    exact exec_of_wellFormed hw s

end Sys2Proof.Machine
end

section
/-! SUPPORT. The effect of the shared operations on the fields the statements of this family speak of, where
`Laws/Ops.lean` does not say it. -/

namespace Sys2Proof.Machine

@[simp] theorem State.writeAlu_ie (s : State) (rd : Reg) (o : AluOut) : (s.writeAlu rd o).ie = s.ie := rfl
@[simp] theorem State.writeAlu_pend (s : State) (rd : Reg) (o : AluOut) : (s.writeAlu rd o).pend = s.pend := rfl
@[simp] theorem State.writeAlu_halted (s : State) (rd : Reg) (o : AluOut) :
    (s.writeAlu rd o).halted = s.halted := rfl

/-- RTI restores both flags and IE from the byte at the stack pointer (R168). -/
@[simp] theorem State.returnFromInterrupt_z (s : State) :
    s.returnFromInterrupt.z = (s.byteAt s.sp).getLsbD 0 := rfl
@[simp] theorem State.returnFromInterrupt_c (s : State) :
    s.returnFromInterrupt.c = (s.byteAt s.sp).getLsbD 1 := rfl
@[simp] theorem State.returnFromInterrupt_ie (s : State) :
    s.returnFromInterrupt.ie = (s.byteAt s.sp).getLsbD 2 := rfl

@[simp] theorem State.takeInterrupt_z (s : State) (n : Nat) : (s.takeInterrupt n).z = s.z := by
  simp [takeInterrupt_eq]
@[simp] theorem State.takeInterrupt_c (s : State) (n : Nat) : (s.takeInterrupt n).c = s.c := by
  simp [takeInterrupt_eq]
@[simp] theorem State.takeInterrupt_ie (s : State) (n : Nat) : (s.takeInterrupt n).ie = false := by
  simp [takeInterrupt_eq]
@[simp] theorem State.takeInterrupt_pend (s : State) (n : Nat) :
    (s.takeInterrupt n).pend = s.pend &&& ~~~ irqBit n := by
  simp [takeInterrupt_eq]

/-- A raise sets the interrupt's bit, and a number above 7 is ignored (R182). -/
theorem State.raiseInterrupt_pend (s : State) (n : Nat) :
    (s.raiseInterrupt n).pend = if n ≤ 7 then s.pend ||| irqBit n else s.pend := by
  unfold raiseInterrupt
  split <;> rfl

/-- The bit of interrupt `n` stands at position `n` alone (R31). -/
theorem getLsbD_irqBit (n m : Nat) : (irqBit n).getLsbD m = (decide (n < 8) && decide (n = m)) := by
  simp [irqBit, BitVec.getLsbD_twoPow]

/-- Raising an interrupt does not look at IE (R182, R30). -/
theorem State.raiseInterrupt_setIe (s : State) (n : Nat) (b : Bool) :
    (s.setIe b).raiseInterrupt n = (s.raiseInterrupt n).setIe b := by
  unfold raiseInterrupt
  split <;> rfl

/-- With IE clear nothing is dispatched (R184). -/
theorem State.dispatchable_of_ie_clear {s : State} (h : s.ie = false) : s.dispatchable = none := by
  simp [dispatchable, h]

end Sys2Proof.Machine
end

section
/-! SUPPORT. Interference: a shared operation started with another pending mask answers the same, but for the
mask. -/

namespace Sys2Proof.Machine

theorem State.byteAt_setPend (s : State) (p : BitVec 8) (a : Addr) :
    (s.setPend p).byteAt a = s.byteAt a :=
  byteAt_congr (setPend_ram s p) (setPend_tmr s p) (setPend_uart s p) a

theorem State.memRead_setPend (s : State) (p : BitVec 8) (a : Addr) :
    (s.setPend p).memRead a = ((s.memRead a).1, (s.memRead a).2.setPend p) := by
  refine Prod.ext (byteAt_setPend s p a) ?_
  rw [memRead_state, memRead_state]
  rfl

theorem State.memWrite_setPend (s : State) (p : BitVec 8) (a : Addr) (v : Byte) :
    (s.setPend p).memWrite a v = (s.memWrite a v).setPend p := by
  unfold memWrite
  split
  · rfl
  · unfold ioWrite
    split <;> rfl

theorem State.push8_setPend (s : State) (p : BitVec 8) (v : Byte) :
    (s.setPend p).push8 v = (s.push8 v).setPend p :=
  memWrite_setPend (s.setSp (s.sp - 1#16)) p _ v

theorem State.push16_setPend (s : State) (p : BitVec 8) (w : Addr) :
    (s.setPend p).push16 w = (s.push16 w).setPend p := by
  simp only [push16, push8_setPend]

theorem State.pop8_setPend (s : State) (p : BitVec 8) :
    (s.setPend p).pop8 = (s.pop8.1, s.pop8.2.setPend p) := by
  simp only [pop8, memRead_setPend, setPend_sp]
  rfl

theorem State.pop16_setPend (s : State) (p : BitVec 8) :
    (s.setPend p).pop16 = (s.pop16.1, s.pop16.2.setPend p) := by
  simp only [pop16, pop8_setPend]

theorem State.read16LE_setPend (s : State) (p : BitVec 8) (a : Addr) :
    (s.setPend p).read16LE a = ((s.read16LE a).1, (s.read16LE a).2.setPend p) := by
  simp only [read16LE, memRead_setPend]

theorem State.setIe_setPend (s : State) (p : BitVec 8) (b : Bool) :
    (s.setPend p).setIe b = (s.setIe b).setPend p := rfl

theorem State.packFlags_setPend (s : State) (p : BitVec 8) : (s.setPend p).packFlags = s.packFlags := rfl

theorem State.enterInterrupt_setPend (s : State) (p : BitVec 8) (n : Byte) :
    (s.setPend p).enterInterrupt n = (s.enterInterrupt n).setPend p := by
  simp only [enterInterrupt, setPend_pc, packFlags_setPend, push16_setPend, push8_setPend, setIe_setPend,
    read16LE_setPend]
  rfl

theorem State.returnFromInterrupt_setPend (s : State) (p : BitVec 8) :
    (s.setPend p).returnFromInterrupt = s.returnFromInterrupt.setPend p := by
  simp only [returnFromInterrupt, pop8_setPend, pop16_setPend]
  rfl

end Sys2Proof.Machine
end

section
/-! SUPPORT. Which instruction changes which of the CPU's one-bit fields and the pending mask. -/

namespace Sys2Proof.Machine

/-- HLT alone changes the halt flag (R32). -/
theorem nextState_halted {i : Instr} (h : i ≠ .hlt) (s : State) : (nextState i s).halted = s.halted := by
  cases i
  case hlt => exact absurd rfl h
  all_goals simp

/-- No instruction writes the pending mask (R31). -/
theorem nextState_pend (i : Instr) (s : State) : (nextState i s).pend = s.pend := by
  cases i <;> simp

/-- No instruction reads the pending mask (R31): the instructions that use no shared operation cannot see it, and
each shared operation commutes with a change of it. -/
theorem nextState_setPend (i : Instr) (s : State) (p : BitVec 8) :
    nextState i (s.setPend p) = (nextState i s).setPend p := by
  cases i
  case ld rd addr => simp only [nextState, State.memRead_setPend]; rfl
  case st addr rd => exact State.memWrite_setPend s p addr (s.reg rd)
  case call target => simp only [nextState, State.setPend_pc, State.push16_setPend]; rfl
  case rti => exact State.returnFromInterrupt_setPend s p
  case push rd => exact State.push8_setPend s p (s.reg rd)
  case pop rd => simp only [nextState, State.pop8_setPend]; rfl
  case ret => simp only [nextState, State.pop16_setPend]; rfl
  case swi n => exact State.enterInterrupt_setPend s p n
  all_goals rfl

/-- A host action other than a reset keeps the halt flag (R32, R222). -/
theorem State.hostAct_halted {act : HostAction} (h : act ≠ .reset) (s : State) :
    (s.hostAct act).halted = s.halted := by
  cases act with
  | load bytes addr =>
    obtain ⟨-, -, -, -, -, -, -, hhalted, -⟩ := s.hostLoad_keeps bytes addr
    exact hhalted
  | pushRx b => simp [hostAct, hostPushRx]
  | drainTx => simp [hostAct, hostDrainTx]
  | raiseLine n => simp [hostAct]
  | reset => exact absurd rfl h
  | busRead addr => simp [hostAct]

theorem State.hostActs_halted {acts : List HostAction} (h : HostAction.reset ∉ acts) (s : State) :
    (s.hostActs acts).halted = s.halted := by
  induction acts generalizing s with
  | nil => rfl
  | cons act acts ih =>
    obtain ⟨hact, hacts⟩ := not_or.1 (List.mem_cons.not.1 h)
    calc (s.hostActs (act :: acts)).halted
        = (s.hostAct act).halted := ih hacts (s.hostAct act)
      _ = s.halted := hostAct_halted (Ne.symm hact) s

/-- A CPU that the host's turn leaves halted stays where that turn left it (R220). -/
theorem step_of_halted {s : State} (h : s.hostTurn.halted = true) : step s = .next s.hostTurn := by
  simp [step, hostedCycle, loopBody, h]

/-- A host's turn takes a CPU out of the halt only by a reset (R32). -/
theorem State.hostTurn_leaves_halt {s : State} (hs : s.halted = true) (ht : s.hostTurn.halted = false) :
    ∃ acts plan, s.hostPlan = acts :: plan ∧ HostAction.reset ∈ acts := by
  cases hp : s.hostPlan with
  | nil =>
    rw [hostTurn_nil hp, hs] at ht
    exact absurd ht.symm Bool.false_ne_true
  | cons acts plan =>
    refine ⟨acts, plan, rfl, by_contra fun hno => ?_⟩
    have hkept : s.hostTurn.halted = s.halted := by
      simpa [hostTurn, hp] using hostActs_halted hno (s.setHostPlan plan)
    rw [hkept, hs] at ht
    exact absurd ht.symm Bool.false_ne_true

end Sys2Proof.Machine
end

section
/-! SUPPORT. Bit sequences and the blocks that select: what a sequence stands for, and what a multiplexer and the
decoder answer. -/

namespace Sys2Proof.Machine

@[simp] theorem length_bitsOf {n : Nat} (v : BitVec n) : (bitsOf v).length = n := by simp [bitsOf]

/-- The lowest `n` bits of a number stand for the number modulo `2 ^ n`. -/
theorem bitsToNat_testBit (n x : Nat) : bitsToNat ((List.range n).map x.testBit) = x % 2 ^ n := by
  induction n generalizing x with
  | zero => simp [bitsToNat, Nat.mod_one]
  | succ n ih =>
    have hshift : (List.range n).map (x.testBit ∘ Nat.succ) = (List.range n).map (x / 2).testBit :=
      List.map_congr_left fun i _ => Nat.testBit_succ x i
    have hbit : (x.testBit 0).toNat = x % 2 := by
      rw [Nat.testBit_zero]
      rcases Nat.mod_two_eq_zero_or_one x with h | h <;> simp [h]
    rw [List.range_succ_eq_map, List.map_cons, List.map_map, hshift, bitsToNat, ih, hbit, Nat.pow_succ',
      Nat.mod_mul]

@[simp] theorem bitsToNat_bitsOf {n : Nat} (v : BitVec n) : bitsToNat (bitsOf v) = v.toNat :=
  (bitsToNat_testBit n v.toNat).trans (Nat.mod_eq_of_lt v.isLt)

/-- Address `k`'s AND term is 1 at address `k` alone (R114). -/
theorem minterm_eq (addr : Bits) {k : Nat} (h : k < 2 ^ addr.length) :
    minterm addr k = decide (bitsToNat addr = k) := by
  induction addr generalizing k with
  | nil =>
    obtain rfl : k = 0 := by simpa using h
    rfl
  | cons b addr ih =>
    rw [List.length_cons, Nat.pow_succ'] at h
    rw [minterm, ih (by omega), bitsToNat]
    rcases Nat.mod_two_eq_zero_or_one k with hk | hk <;> cases b <;>
      simp [hk, gateAnd, gateNot] <;> omega

/-- A line of the decoder is 1 exactly when the enable is 1 and the address is the line's number (R114). -/
theorem getD_decoder (addr : Bits) (enable : Bool) {k : Nat} (h : k < 2 ^ addr.length) :
    (decoder addr enable).getD k false = (enable && decide (bitsToNat addr = k)) := by
  simp [decoder, List.getD_eq_getElem?_getD, h, minterm_eq addr h, gateAnd]

/-- The control unit asserts `flags_write` on the six lines of the ALU's instructions (R27, R102). -/
theorem controlUnit_flagsWrite (op : BitVec 4) (z : Bool) :
    (controlUnit op z).flagsWrite = true ↔ op ∈ [0x4#4, 0x5#4, 0x6#4, 0x7#4, 0x9#4, 0xD#4] := by
  have line : ∀ k, k < 16 → (decoder (bitsOf op) true).getD k false = decide (op = BitVec.ofNat 4 k) := by
    intro k hk
    rw [getD_decoder _ _ (by simpa using hk), bitsToNat_bitsOf, Bool.true_and, decide_eq_decide,
      BitVec.toNat_eq, BitVec.toNat_ofNat, Nat.mod_eq_of_lt hk]
  simp (disch := decide) only [controlUnit, line, Bool.or_eq_true, decide_eq_true_eq, List.mem_cons,
    List.not_mem_nil, or_false, or_assoc]

/-- A multiplexer passes the input that its selector names (R115). -/
theorem mux2_eq (sel : Bool) {d0 d1 : Bits} (h : d0.length = d1.length) :
    mux2 sel d0 d1 = if sel then d1 else d0 := by
  cases sel <;> exact List.ext_getElem (by simp [mux2, h]) (by simp [mux2, gateOr, gateAnd, gateNot])

end Sys2Proof.Machine
end

section
/-! SUPPORT. Latches, flip-flops, registers and the register file: what one clock call does to each. -/

namespace Sys2Proof.Machine

@[simp] theorem srLatch_set (q : Bool) : srLatch true false q = true := by cases q <;> rfl
@[simp] theorem srLatch_reset (q : Bool) : srLatch false true q = false := by cases q <;> rfl
@[simp] theorem srLatch_hold (q : Bool) : srLatch false false q = q := by cases q <;> rfl

/-- An enabled D latch sets or resets its SR latch: it is transparent (R43). -/
@[simp] theorem dLatch_enabled (d q : Bool) : dLatch true d q = d := by
  cases d
  · exact srLatch_reset q
  · exact srLatch_set q

/-- A D latch that is not enabled holds (R43). -/
@[simp] theorem dLatch_disabled (d q : Bool) : dLatch false d q = q := srLatch_hold q

/-- While the clock is low the master follows the input and the slave holds (R44). -/
@[simp] theorem dffClock_low (ff : DFlipFlop) (d : Bool) : dffClock ff false d = ⟨d, ff.slave⟩ := by
  simp [dffClock, gateNot]

/-- While the clock is high the master holds and the slave follows it (R44). -/
@[simp] theorem dffClock_high (ff : DFlipFlop) (d : Bool) : dffClock ff true d = ⟨ff.master, ff.master⟩ := by
  simp [dffClock, gateNot]

/-- A rising edge stores the input in both latches (R44). -/
@[simp] theorem dffEdge_eq (ff : DFlipFlop) (d : Bool) : dffEdge ff d = ⟨d, d⟩ := by
  simp [dffEdge]

@[simp] theorem length_registerValue (r : RegisterN) : (registerValue r).length = r.length := by
  simp [registerValue]

@[simp] theorem length_registerOf (v : Bits) : (registerOf v).length = v.length := by
  simp [registerOf]

@[simp] theorem registerValue_registerOf (v : Bits) : registerValue (registerOf v) = v := by
  simp [registerValue, registerOf, Function.comp_def]

/-- While the clock is low every master follows its input, the data when loading and else its own output, and
every slave holds (R44, R45). -/
theorem registerClock_low (r : RegisterN) (load : Bool) {data : Bits} (h : data.length = r.length) :
    registerClock r false load data =
      List.zipWith (fun ff d => ⟨d, ff.slave⟩) r (if load then data else registerValue r) := by
  simp only [registerClock, mux2_eq load ((length_registerValue r).trans h.symm), dffClock_low]

/-- While the clock is high every slave follows its master, whatever the inputs (R44, R45). -/
theorem registerClock_high (r : RegisterN) (load : Bool) {data : Bits} (h : data.length = r.length) :
    registerClock r true load data = r.map fun ff => ⟨ff.master, ff.master⟩ := by
  simp only [registerClock, dffClock_high]
  exact List.ext_getElem (by simp [mux2, h]) (by simp)

/-- After a rising edge a register stores the data when loading, else what it stored (R45). -/
theorem registerEdge_eq (r : RegisterN) (load : Bool) {data : Bits} (h : data.length = r.length) :
    registerEdge r load data = registerOf (if load then data else registerValue r) := by
  have hin : (if load then data else registerValue r).length = r.length := by cases load <;> simp [h]
  have hlen : (registerClock r false load data).length = r.length := by simp [registerClock_low r load h, hin]
  rw [registerEdge, registerClock_high _ load (h.trans hlen.symm), registerClock_low r load h]
  exact List.ext_getElem (by simp [hin]) (by simp [registerOf])

/-- A register that stores `v` keeps storing it through a clock call without load, low or high (R45). -/
theorem registerClock_hold (v : Bits) (clk : Bool) {data : Bits} (h : data.length = v.length) :
    registerClock (registerOf v) clk false data = registerOf v := by
  have hlen : data.length = (registerOf v).length := h.trans (length_registerOf v).symm
  cases clk with
  | false =>
    rw [registerClock_low _ false hlen, if_neg Bool.false_ne_true, registerValue_registerOf]
    simp [registerOf, List.zipWith_map_left, List.zipWith_self]
  | true =>
    rw [registerClock_high _ false hlen]
    simp [registerOf]

/-- Any number of clock calls without load keep what the register stores (R45). -/
theorem registerClock_hold_calls (v : Bits) (calls : List (Bool × Bits))
    (h : ∀ p ∈ calls, p.2.length = v.length) :
    calls.foldl (fun q p => registerClock q p.1 false p.2) (registerOf v) = registerOf v := by
  induction calls with
  | nil => rfl
  | cons p calls ih =>
    rw [List.foldl_cons, registerClock_hold v p.1 (h p List.mem_cons_self)]
    exact ih fun q hq => h q (List.mem_cons_of_mem p hq)

/-- A rising edge at a register that stores a byte (R45). -/
theorem registerEdge_byte (old v : Byte) (load : Bool) :
    registerEdge (registerOf (bitsOf old)) load (bitsOf v) =
      registerOf (bitsOf (if load then v else old)) := by
  rw [registerEdge_eq _ load (by simp)]
  cases load <;> simp

/-- The load enable of register `k` is the write port's decoder line `k` (R47). -/
theorem getD_bank_line (r : Reg) (en : Bool) {k : Nat} (h : k < 4) :
    (decoder [r.sel.getLsbD 0, r.sel.getLsbD 1] en).getD k false = (en && decide (r.sel.toNat = k)) := by
  have hsel : bitsToNat [r.sel.getLsbD 0, r.sel.getLsbD 1] = r.sel.toNat := bitsToNat_bitsOf r.sel
  rw [getD_decoder _ en h, hsel]

/-- A rising edge of the write port writes the selected register when enabled, and no other (R47). -/
theorem bankWrite_eq (x : RegFile) (r : Reg) (en : Bool) (v : Byte) :
    bankWrite (bankOf x) (r.sel.getLsbD 1) (r.sel.getLsbD 0) en (bitsOf v) =
      bankOf (if en then x.set r v else x) := by
  simp only [bankWrite, bankOf, getD_bank_line r en (show 0 < 4 by decide),
    getD_bank_line r en (show 1 < 4 by decide), getD_bank_line r en (show 2 < 4 by decide),
    getD_bank_line r en (show 3 < 4 by decide), registerEdge_byte]
  cases en <;> cases r <;> rfl

/-- The read port gives the selected register (R47). -/
theorem bankRead_eq (x : RegFile) (q : Reg) :
    bankRead (bankOf x) (q.sel.getLsbD 1) (q.sel.getLsbD 0) = bitsOf (x.get q) := by
  simp only [bankRead, bankOf, registerValue_registerOf, mux4]
  cases q <;> simp [mux2_eq, Reg.sel, RegFile.get]

end Sys2Proof.Machine
end

section
/-! The proofs of the statements about the state (`10_state.md`). -/

namespace Sys2Proof.Machine

/-- Settles O6: the frame of the halt flag over the instructions and over the host's actions; a halted CPU does
nothing after the host's turn, so only that turn can end the halt. -/
theorem haltIsLeftOnlyByReset : Obligations.HaltIsLeftOnlyByReset := by
  refine ⟨fun s h => ?_, fun s => ⟨_, rfl, rfl⟩, fun i s t hi h => ?_, fun _ => rfl, fun s t hs h ht => ?_⟩
  · simp [cpuStep, h]
  · obtain ⟨-, rfl⟩ := exec_next_iff.1 h
    exact nextState_halted hi s
  · refine State.hostTurn_leaves_halt hs (Bool.eq_false_iff.2 fun hturn => ?_)
    rw [step_of_halted hturn] at h
    rw [← Host.Outcome.next.inj h, hturn] at ht
    exact absurd ht.symm Bool.false_ne_true

/-- Settles O38, by the frame of both flags over the instructions. -/
theorem flagsWrittenOnlyByAluAndRti : Obligations.FlagsWrittenOnlyByAluAndRti := by
  refine ⟨controlUnit_flagsWrite, fun s => ⟨_, rfl, rfl, rfl⟩, fun s n => ⟨s.takeInterrupt_z n, s.takeInterrupt_c n⟩,
    fun i s t h => ?_⟩
  obtain ⟨-, rfl⟩ := exec_next_iff.1 h
  cases i
  case add | sub | and | or | cmp | addi | rti => trivial
  all_goals simp [FlagsKept]

/-- Settles O42, by the value of IE after each instruction, and by what IE gates. -/
theorem interruptEnableWriters : Obligations.InterruptEnableWriters := by
  refine ⟨fun i s t h => ?_, State.takeInterrupt_ie, fun _ => rfl, fun s hh hie => ?_,
    State.raiseInterrupt_setIe, fun n s b => ⟨_, rfl, (s.setIe b).enterInterrupt_sp n⟩⟩
  · obtain ⟨-, rfl⟩ := exec_next_iff.1 h
    cases i <;> simp
  · simp [cpuStep, hh, State.dispatchable_of_ie_clear hie]

/-- Settles O43: every instruction keeps the mask and commutes with a change of it. -/
theorem pendingMaskUnseenByInstructions : Obligations.PendingMaskUnseenByInstructions := by
  refine ⟨fun i s t p h => ?_, fun s n hn => ?_, fun s n hn => ?_, fun _ => rfl⟩
  · obtain ⟨hw, rfl⟩ := exec_next_iff.1 h
    exact ⟨nextState_pend i s, exec_next_iff.2 ⟨hw, (nextState_setPend i s p).symm⟩⟩
  · simp [State.raiseInterrupt_pend, getLsbD_irqBit, hn, Nat.lt_succ_of_le hn]
  · simp [getLsbD_irqBit, Nat.lt_succ_of_le hn]

/-- Settles O56: after a loading edge both latches of every bit hold the data, which is a fixed point of every
clock call without load. -/
theorem registerLoadsAndHolds : Obligations.RegisterLoadsAndHolds := by
  intro r data h
  have hload : registerEdge r true data = registerOf data := registerEdge_eq r true h
  refine ⟨?_, ?_, fun calls hcalls => ?_⟩
  · rw [hload, registerValue_registerOf]
  · rw [registerEdge_eq r false h]
    exact registerValue_registerOf (registerValue r)
  · rw [hload, registerClock_hold_calls data calls fun p hp => (hcalls p hp).trans h.symm,
      registerValue_registerOf]

/-- Settles O58: the write port, then the read port. -/
theorem registerFileStructureMatches : Obligations.RegisterFileStructureMatches := by
  intro x r q v en
  simp only [bankWrite_eq, bankRead_eq]
  cases en <;> rfl

/-- Settles O47: reset is a record update. -/
theorem resetClearsCpuState : Obligations.ResetClearsCpuState :=
  fun _ => ⟨rfl, rfl, rfl, rfl, rfl, fun _ => rfl, rfl⟩

/-- Settles O55, by the two latches of a flip-flop at each clock level. -/
theorem flipFlopSamplesRisingEdge : Obligations.FlipFlopSamplesRisingEdge :=
  ⟨fun d q => ⟨dLatch_enabled d q, dLatch_disabled d q⟩, fun ff d d' => by simp⟩

end Sys2Proof.Machine
end

section
/-! SUPPORT. The two halves of the address map (R61, R62): RAM, and the I/O window by offset (R65). -/

namespace Sys2Proof.Machine

theorem State.memRead_of_ram (s : State) {a : Addr} (h : a.toNat ≤ Config.ramLast) :
    s.memRead a = (s.ram.read a.toNat, s) :=
  if_pos h

theorem State.memWrite_of_ram (s : State) {a : Addr} (v : Byte) (h : a.toNat ≤ Config.ramLast) :
    s.memWrite a v = s.setRam (s.ram.write a.toNat v) :=
  if_pos h

/-- The I/O window starts right above RAM. -/
theorem not_ram_of_io {a : Addr} {off : Nat} (h : a.toNat = Config.ioBase + off) :
    ¬ a.toNat ≤ Config.ramLast := by
  simp only [Config.ioBase, Config.ramLast] at h ⊢
  omega

theorem State.memRead_of_io (s : State) {a : Addr} {off : Nat} (h : a.toNat = Config.ioBase + off) :
    s.memRead a = s.ioRead off := by
  rw [memRead, if_neg (not_ram_of_io h), h, Nat.add_sub_cancel_left]

theorem State.memWrite_of_io (s : State) {a : Addr} {off : Nat} (v : Byte)
    (h : a.toNat = Config.ioBase + off) : s.memWrite a v = s.ioWrite off v := by
  rw [memWrite, if_neg (not_ram_of_io h), h, Nat.add_sub_cancel_left]

/-- From offset 4 on no device answers a read (R65). -/
theorem State.memRead_unmapped (s : State) {a : Addr} (h : 0xF004 ≤ a.toNat) :
    s.memRead a = (0x00#8, s) := by
  obtain ⟨n, hn⟩ := Nat.exists_eq_add_of_le h
  have hoff : a.toNat = Config.ioBase + (n + 4) := by simp only [Config.ioBase]; omega
  exact s.memRead_of_io hoff

/-- From offset 3, the UART's status register, on a write is dropped (R65, R214). -/
theorem State.memWrite_dropped (s : State) {a : Addr} (v : Byte) (h : 0xF003 ≤ a.toNat) :
    s.memWrite a v = s := by
  obtain ⟨n, hn⟩ := Nat.exists_eq_add_of_le h
  have hoff : a.toNat = Config.ioBase + (n + 3) := by simp only [Config.ioBase]; omega
  exact s.memWrite_of_io v hoff

end Sys2Proof.Machine
end

section
/-! The proof of the statement about the bus (`20_memory.md`). -/

namespace Sys2Proof.Machine

/-- Settles O27: RAM and the unmapped range each by their rule, a device register by its offset in the I/O
window. -/
theorem busRoutesAccesses : Obligations.BusRoutesAccesses := by
  refine ⟨fun s a => ⟨s.memRead_of_ram, ?_, ?_, ?_, ?_, s.memRead_unmapped⟩,
    fun s a v => ⟨s.memWrite_of_ram v, ?_, ?_, ?_, s.memWrite_dropped v⟩⟩
  · exact fun h => s.memRead_of_io (off := 0) (congrArg BitVec.toNat h)
  · exact fun h => s.memRead_of_io (off := 1) (congrArg BitVec.toNat h)
  · exact fun h => s.memRead_of_io (off := 2) (congrArg BitVec.toNat h)
  · exact fun h => s.memRead_of_io (off := 3) (congrArg BitVec.toNat h)
  · exact fun h => s.memWrite_of_io (off := 0) v (congrArg BitVec.toNat h)
  · exact fun h => s.memWrite_of_io (off := 1) v (congrArg BitVec.toNat h)
  · exact fun h => s.memWrite_of_io (off := 2) v (congrArg BitVec.toNat h)

end Sys2Proof.Machine
end

section
/-! SUPPORT. The control unit's signals opcode by opcode, and the datapath under them (R101 to R105). -/

namespace Sys2Proof.Machine

/-- R102's matrix, row by row, with R103's `pc_jump`; `controlUnit_eq_signalRow` ties it to the control unit's gates.
The rows of opcodes 0x0 and 0xE are blank. -/
def signalRow (zero : Bool) : Nat → Signals
  | 0x1 => { Signals.none with regWrite := true, regSrcImm := true }
  | 0x2 => { Signals.none with regWrite := true, memRead := true, regSrcMem := true }
  | 0x3 => { Signals.none with memWrite := true }
  | 0x4 => { Signals.none with regWrite := true, flagsWrite := true }
  | 0x5 => { Signals.none with regWrite := true, flagsWrite := true, aluOp0 := true }
  | 0x6 => { Signals.none with regWrite := true, flagsWrite := true, aluOp1 := true }
  | 0x7 => { Signals.none with regWrite := true, flagsWrite := true, aluOp1 := true, aluOp0 := true }
  | 0x8 => { Signals.none with regWrite := true, isMov := true }
  | 0x9 => { Signals.none with flagsWrite := true, aluOp0 := true }
  | 0xA => { Signals.none with pcJump := true }
  | 0xB => { Signals.none with pcJump := zero }
  | 0xC => { Signals.none with pcJump := !zero }
  | 0xD => { Signals.none with regWrite := true, flagsWrite := true, aluSrcImm := true }
  | 0xF => { Signals.none with halt := true }
  | _ => Signals.none

/-- Line `k` of the control unit's decoder is the test of the opcode against `k` (R102, R114). -/
theorem controlUnit_line (op : BitVec 4) {k : Nat} (hk : k < 16) :
    (decoder (bitsOf op) true).getD k false = decide (op.toNat = k) := by
  rw [getD_decoder _ _ (by simpa using hk), bitsToNat_bitsOf, Bool.true_and]

/-- The gates of the control unit compute R102's matrix: with the decoder's lines read as tests of the opcode, each
row is an evaluation. -/
theorem controlUnit_eq_signalRow (op : BitVec 4) (zero : Bool) :
    controlUnit op zero = signalRow zero op.toNat := by
  simp (disch := decide) only [controlUnit, controlUnit_line]
  have hlt : op.toNat < 16 := op.isLt
  generalize op.toNat = n at hlt
  match n with
  | 0x0 | 0x1 | 0x2 | 0x3 | 0x4 | 0x5 | 0x6 | 0x7 | 0x8 | 0x9 | 0xA | 0xD | 0xE | 0xF => rfl
  | 0xB | 0xC => cases zero <;> rfl
  | _ + 16 => omega

/-- The instructions of the fourteen opcodes that go through the control unit do what the datapath does under
their row of signals (R101). The rows agree by definition, but for the polarity of JNZ's test; LD and ST are simplified
so that the kernel does not evaluate a bus access. -/
theorem exec_decoded_eq_executeDatapath {s : State} (h0 : opcodeField s.ir.b2 ≠ 0x0#4)
    (hE : opcodeField s.ir.b2 ≠ 0xE#4) : exec s.decoded s = .next (executeDatapath s) := by
  have hlt : (opcodeField s.ir.b2).toNat < 16 := (opcodeField s.ir.b2).isLt
  rw [← BitVec.toNat_ne_iff_ne] at h0 hE
  rw [State.decoded, decodeBytes, executeDatapath, controlUnit_eq_signalRow]
  generalize (opcodeField s.ir.b2).toNat = op at h0 hE hlt
  match op with
  | 0x0 => exact absurd rfl h0
  | 0xE => exact absurd rfl hE
  | 0x2 => simp [exec, execLd, datapath, signalRow, Signals.none, writeback]
  | 0x3 => simp [exec, execSt, datapath, signalRow, Signals.none]
  | 0xC => cases hz : s.z <;> simp [exec, execJnz, datapath, signalRow, Signals.none, hz]
  | 0x1 | 0x4 | 0x5 | 0x6 | 0x7 | 0x8 | 0x9 | 0xA | 0xB | 0xD | 0xF => rfl
  | _ + 16 => omega

/-- Opcode 0xE is CALL (R95, R101). -/
theorem decodeBytes_call {b2 : Byte} (b0 b1 : Byte) (h : opcodeField b2 = 0xE#4) :
    decodeBytes b0 b1 b2 = .call (imm16Field b0 b1) := by
  simp [decodeBytes, h]

end Sys2Proof.Machine
end

section
/-! The proofs of the statements about the decoder and the execute step (`30_encoding.md`). -/

namespace Sys2Proof.Machine

/-- Settles O57, by the value of each line, which `minterm_eq` gives by induction on the address. -/
theorem decoderIsOneHot : Obligations.DecoderIsOneHot := by
  refine fun addr enable => ⟨by simp [decoder], fun k hk => ?_⟩
  rw [getD_decoder addr enable hk, Bool.and_eq_true, decide_eq_true_eq]

/-- Settles O60: the table of signals for the fourteen opcodes, the decoder's arms for the other two. -/
theorem instructionsMatchDatapath : Obligations.InstructionsMatchDatapath :=
  fun s => ⟨exec_decoded_eq_executeDatapath, decodeBytes_call s.ir.b0 s.ir.b1,
    decodeBytes_misc s.ir.b0 s.ir.b1⟩

end Sys2Proof.Machine
end

section
/-! SUPPORT. The frames of a register write and of one bus access, and the decoder's arms of the data movements
(R95). -/

namespace Sys2Proof.Machine

@[simp] theorem State.byteAt_setReg (s : State) (r : Reg) (v : Byte) (a : Addr) :
    (s.setReg r v).byteAt a = s.byteAt a :=
  byteAt_congr (s.setReg_ram r v) (s.setReg_tmr r v) (s.setReg_uart r v) a

/-- Writing one register changes nothing else (R21, R22). -/
theorem State.setReg_frame (s : State) (r : Reg) (v : Byte) :
    RegsKeptBut r s (s.setReg r v) ∧ FlagsKept s (s.setReg r v) ∧ PointersKept s (s.setReg r v) ∧
    InterruptStateKept s (s.setReg r v) ∧ DevicesKept s (s.setReg r v) ∧ OutsideKept s (s.setReg r v) ∧
    BytesKept s (s.setReg r v) :=
  ⟨fun _ => s.reg_setReg_other v, ⟨rfl, rfl⟩, ⟨rfl, rfl⟩, ⟨rfl, rfl, rfl⟩, ⟨rfl, rfl⟩, ⟨rfl, rfl, rfl, rfl⟩,
    s.byteAt_setReg r v⟩

@[simp] theorem State.memRead_reg (s : State) (a : Addr) (q : Reg) : (s.memRead a).2.reg q = s.reg q :=
  congrArg (RegFile.get · q) (s.memRead_x a)

@[simp] theorem State.memWrite_reg (s : State) (a : Addr) (v : Byte) (q : Reg) :
    (s.memWrite a v).reg q = s.reg q :=
  congrArg (RegFile.get · q) (s.memWrite_x a v)

/-- A bus read touches no field of the CPU (R61). -/
theorem State.memRead_frame (s : State) (a : Addr) :
    RegsKept s (s.memRead a).2 ∧ FlagsKept s (s.memRead a).2 ∧ PointersKept s (s.memRead a).2 ∧
    InterruptStateKept s (s.memRead a).2 ∧ OutsideKept s (s.memRead a).2 := by
  simp [RegsKept, FlagsKept, PointersKept, InterruptStateKept, OutsideKept]

/-- A bus write touches no field of the CPU (R62). -/
theorem State.memWrite_frame (s : State) (a : Addr) (v : Byte) :
    RegsKept s (s.memWrite a v) ∧ FlagsKept s (s.memWrite a v) ∧ PointersKept s (s.memWrite a v) ∧
    InterruptStateKept s (s.memWrite a v) ∧ OutsideKept s (s.memWrite a v) := by
  simp [RegsKept, FlagsKept, PointersKept, InterruptStateKept, OutsideKept]

/-- A bus read anywhere but at the UART's data register leaves the whole state alone (R79). -/
theorem State.memRead_state_of_ne (s : State) {a : Addr} (h : a ≠ 0xF002#16) : (s.memRead a).2 = s := by
  rw [memRead_state, if_neg h]
  rfl

/-- No bus read changes a RAM byte (R61, R79). -/
theorem State.memRead_ramKept (s : State) (a : Addr) : RamKeptOutside [] s (s.memRead a).2 := by
  intro b hb _
  rw [byteAt_ram _ hb, byteAt_ram _ hb, memRead_ram]

/-- A read of the UART's data register takes the head of the receive queue, 0x00 when there is none (R212). -/
theorem Uart.readData_eq (u : Uart) : u.readData = (u.rx.headD 0x00#8, ⟨u.rx.tail, u.tx⟩) := by
  obtain ⟨rx, tx⟩ := u
  cases rx <;> rfl

theorem decodeBytes_ldi (b0 b1 : Byte) (rd : Reg) (rs : BitVec 2) :
    decodeBytes b0 b1 (byte2 0x1#4 rd.sel rs) = .ldi rd b0 := by
  simp [decodeBytes]

theorem decodeBytes_ld (b0 b1 : Byte) (rd : Reg) (rs : BitVec 2) :
    decodeBytes b0 b1 (byte2 0x2#4 rd.sel rs) = .ld rd (imm16Field b0 b1) := by
  simp [decodeBytes]

theorem decodeBytes_st (b0 b1 : Byte) (rd : Reg) (rs : BitVec 2) :
    decodeBytes b0 b1 (byte2 0x3#4 rd.sel rs) = .st (imm16Field b0 b1) rd := by
  simp [decodeBytes]

theorem decodeBytes_mov (b0 b1 : Byte) (rd rs : Reg) :
    decodeBytes b0 b1 (byte2 0x8#4 rd.sel rs.sel) = .mov rd rs := by
  simp [decodeBytes]

end Sys2Proof.Machine
end

section
/-! The proofs of the statements about data movement (`40_load_store_move.md`). -/

namespace Sys2Proof.Machine

/-- Settles O7: LDI is one register write. -/
theorem ldiLoadsImmediate : Obligations.LdiLoadsImmediate :=
  ⟨decodeBytes_ldi, controlUnit_eq_signalRow 0x1#4,
    fun rd imm s => ⟨_, rfl, s.reg_setReg_same rd imm, s.setReg_frame rd imm⟩⟩

/-- Settles O8: LD is the bus read, whose value and side effect O27 gives address by address, then one register
write. -/
theorem ldReadsTheBus : Obligations.LdReadsTheBus := by
  refine ⟨decodeBytes_ld, controlUnit_eq_signalRow 0x2#4, fun rd a s => ?_⟩
  have hrd : ((s.memRead a).2.setReg rd (s.memRead a).1).reg rd = (s.memRead a).1 := State.reg_setReg_same ..
  obtain ⟨hram, hreload, hcontrol, hdata, hstatus, hunmapped⟩ := busRoutesAccesses.1 s a
  obtain ⟨hregs, hflags, hptrs, hint, hout⟩ := s.memRead_frame a
  obtain ⟨hregs', -, -, -, -, -, hbytes⟩ := (s.memRead a).2.setReg_frame rd (s.memRead a).1
  refine ⟨_, rfl, hrd, fun h => ?_, fun h => ?_, fun h => ?_, fun h => ⟨?_, ?_⟩, fun h => ?_, fun h => ?_,
    fun h => ⟨?_, fun b => ?_⟩, fun b hb hn => ?_, s.memRead_tmr a, fun q hq => ?_, hflags, hptrs, hint, hout⟩
  · rw [hrd, hram h]
  · rw [hrd, hreload h]
  · rw [hrd, hcontrol h]
  · rw [hrd, hdata h, Uart.readData_eq]
  · rw [State.setReg_uart, hdata h, State.setUart_uart, Uart.readData_eq]
  · rw [hrd, hstatus h]
  · rw [hrd, hunmapped h]
  · rw [State.setReg_uart, s.memRead_state_of_ne h]
  · rw [hbytes b, s.memRead_state_of_ne h]
  · exact (hbytes b).trans (s.memRead_ramKept a b hb hn)
  · exact (hregs' q hq).trans (hregs q)

/-- Settles O9: ST is the bus write, which O27 gives address by address; no other address reads differently. -/
theorem stWritesTheBus : Obligations.StWritesTheBus := by
  refine ⟨decodeBytes_st, controlUnit_eq_signalRow 0x3#4, fun rd a s => ?_⟩
  obtain ⟨-, hreload, hcontrol, hdata, hdropped⟩ := busRoutesAccesses.2 s a (s.reg rd)
  refine ⟨_, rfl, fun h => ?_, fun h => ?_, fun h => ?_, fun h => ?_, fun h => ?_,
    fun b => s.byteAt_memWrite_ne (s.reg rd), s.memWrite_frame a (s.reg rd)⟩
  · exact ⟨s.byteAt_memWrite_same (s.reg rd) h, s.memWrite_ram_devices (s.reg rd) h⟩
  · rw [hreload h]; exact ⟨rfl, rfl⟩
  · rw [hcontrol h]; exact ⟨rfl, rfl⟩
  · rw [hdata h]; exact ⟨rfl, rfl⟩
  · rw [hdropped h]; exact ⟨⟨rfl, rfl⟩, fun _ => rfl⟩

/-- Settles O10: MOV is one register write, of a value read before it, so `rd = rs` needs no case of its own. -/
theorem movCopiesRegister : Obligations.MovCopiesRegister :=
  ⟨decodeBytes_mov, controlUnit_eq_signalRow 0x8#4,
    fun rd rs s => ⟨_, rfl, s.reg_setReg_same rd (s.reg rs), s.setReg_frame rd (s.reg rs)⟩⟩

end Sys2Proof.Machine
end

section
/-! SUPPORT. The functional ALU's answers in the arithmetic of bytes (R134 to R138), the frames of its two
write-backs, and the decoder's arms of arithmetic and logic (R95). -/

namespace Sys2Proof.Machine

/-- The zero output is 1 exactly on the result 0x00, for every operation (R135). -/
theorem alu_zero_iff (op : AluOp) (a b : Byte) : (alu op a b).zero = true ↔ (alu op a b).result = 0x00#8 := by
  cases op <;> exact decide_eq_true_iff

theorem alu_add_result (a b : Byte) : (alu .add a b).result = a + b := (BitVec.add_def a b).symm

theorem alu_add_carry_iff (a b : Byte) : (alu .add a b).carry = true ↔ 256 ≤ a.toNat + b.toNat :=
  decide_eq_true_iff

/-- SUB adds the two's complement (R137). -/
theorem alu_sub_result (a b : Byte) : (alu .sub a b).result = a - b := by
  have hneg : ~~~b + 1#8 = -b := (BitVec.neg_eq_not_add b).symm
  calc (alu .sub a b).result
      = a + (~~~b + 1#8) := by
        simp only [alu, aluArith, BitVec.ofNat_add, BitVec.ofNat_toNat, BitVec.setWidth_eq, BitVec.add_assoc]
    _ = a - b := by rw [hneg, BitVec.sub_eq_add_neg]

/-- SUB's carry is 1 exactly when there is no borrow (R137). -/
theorem alu_sub_carry_iff (a b : Byte) : (alu .sub a b).carry = true ↔ b.toNat ≤ a.toNat := by
  have hnot : (~~~b).toNat = 255 - b.toNat := BitVec.toNat_not
  have hb : b.toNat < 256 := b.isLt
  rw [alu, aluArith, decide_eq_true_iff, hnot]
  omega

/-- SUB's zero output compares its operands (R141). -/
theorem alu_sub_zero_iff (a b : Byte) : (alu .sub a b).zero = true ↔ a = b := by
  rw [alu_zero_iff, alu_sub_result]
  exact sub_eq_zero

/-- OR's zero output is 1 exactly when both operands are 0 (R143). -/
theorem alu_or_zero_iff (a b : Byte) : (alu .or a b).zero = true ↔ a = 0x00#8 ∧ b = 0x00#8 :=
  (alu_zero_iff .or a b).trans BitVec.or_eq_zero_iff

/-- Latching the flags changes nothing else (R26, R135). -/
theorem State.latchFlags_frame (s : State) (o : AluOut) :
    RegsKept s (s.latchFlags o) ∧ PointersKept s (s.latchFlags o) ∧ InterruptStateKept s (s.latchFlags o) ∧
    DevicesKept s (s.latchFlags o) ∧ OutsideKept s (s.latchFlags o) ∧ BytesKept s (s.latchFlags o) :=
  ⟨fun _ => rfl, ⟨rfl, rfl⟩, ⟨rfl, rfl, rfl⟩, ⟨rfl, rfl⟩, ⟨rfl, rfl, rfl, rfl⟩,
    byteAt_congr (s.latchFlags_ram o) (s.latchFlags_tmr o) (s.latchFlags_uart o)⟩

@[simp] theorem State.writeAlu_reg_same (s : State) (rd : Reg) (o : AluOut) :
    (s.writeAlu rd o).reg rd = o.result :=
  s.reg_setReg_same rd o.result

/-- After the ALU's write-back Z tells whether the register written holds 0x00 (R135). -/
theorem State.writeAlu_z_iff (s : State) (rd : Reg) (op : AluOp) (a b : Byte) :
    (s.writeAlu rd (alu op a b)).z = true ↔ (s.writeAlu rd (alu op a b)).reg rd = 0x00#8 := by
  rw [writeAlu_reg_same]
  exact alu_zero_iff op a b

/-- The ALU's write-back changes one register and the flags, and nothing else (R116). -/
theorem State.writeAlu_frame (s : State) (rd : Reg) (o : AluOut) :
    RegsKeptBut rd s (s.writeAlu rd o) ∧ PointersKept s (s.writeAlu rd o) ∧
    InterruptStateKept s (s.writeAlu rd o) ∧ DevicesKept s (s.writeAlu rd o) ∧
    OutsideKept s (s.writeAlu rd o) ∧ BytesKept s (s.writeAlu rd o) := by
  obtain ⟨hregs, -, hptrs, hint, hdev, hout, hbytes⟩ := s.setReg_frame rd o.result
  obtain ⟨-, -, -, -, -, hbytes'⟩ := (s.setReg rd o.result).latchFlags_frame o
  exact ⟨hregs, hptrs, hint, hdev, hout, fun a => (hbytes' a).trans (hbytes a)⟩

theorem decodeBytes_add (b0 b1 : Byte) (rd rs : Reg) :
    decodeBytes b0 b1 (byte2 0x4#4 rd.sel rs.sel) = .add rd rs := by
  simp [decodeBytes]

theorem decodeBytes_sub (b0 b1 : Byte) (rd rs : Reg) :
    decodeBytes b0 b1 (byte2 0x5#4 rd.sel rs.sel) = .sub rd rs := by
  simp [decodeBytes]

theorem decodeBytes_and (b0 b1 : Byte) (rd rs : Reg) :
    decodeBytes b0 b1 (byte2 0x6#4 rd.sel rs.sel) = .and rd rs := by
  simp [decodeBytes]

theorem decodeBytes_or (b0 b1 : Byte) (rd rs : Reg) :
    decodeBytes b0 b1 (byte2 0x7#4 rd.sel rs.sel) = .or rd rs := by
  simp [decodeBytes]

theorem decodeBytes_cmp (b0 b1 : Byte) (rd rs : Reg) :
    decodeBytes b0 b1 (byte2 0x9#4 rd.sel rs.sel) = .cmp rd rs := by
  simp [decodeBytes]

theorem decodeBytes_addi (b0 b1 : Byte) (rd : Reg) (rs : BitVec 2) :
    decodeBytes b0 b1 (byte2 0xD#4 rd.sel rs) = .addi rd b0 := by
  simp [decodeBytes]

end Sys2Proof.Machine
end

section
/-! SUPPORT. The adder and the ALU at gate level (R131 to R135): the value of each block's output bits. -/

namespace Sys2Proof.Machine

theorem bitsToNat_lt (xs : Bits) : bitsToNat xs < 2 ^ xs.length := by
  induction xs with
  | nil => decide
  | cons x xs ih =>
    have hx : x.toNat < 2 := x.toNat_lt
    rw [bitsToNat, List.length_cons, Nat.pow_succ']
    omega

/-- A bit sequence is determined by its length and its value. -/
theorem bits_ext {xs ys : Bits} (hlen : xs.length = ys.length) (hval : bitsToNat xs = bitsToNat ys) :
    xs = ys := by
  induction xs generalizing ys with
  | nil => exact (List.length_eq_zero_iff.1 hlen.symm).symm
  | cons x xs ih =>
    obtain ⟨y, ys, rfl⟩ := List.exists_cons_of_length_eq_add_one hlen.symm
    have hx : x.toNat < 2 := x.toNat_lt
    have hy : y.toNat < 2 := y.toNat_lt
    simp only [bitsToNat] at hval
    have hhead : x = y := Function.LeftInverse.injective Bool.ofNat_toNat (by omega)
    have htail : xs = ys := ih (Nat.succ.inj hlen) (by omega)
    rw [hhead, htail]

/-- The two outputs of a full adder are the sum of its three inputs (R132). -/
theorem fullAdder_value (x y cin : Bool) :
    (fullAdder x y cin).1.toNat + 2 * (fullAdder x y cin).2.toNat = x.toNat + y.toNat + cin.toNat := by
  cases x <;> cases y <;> cases cin <;> rfl

theorem length_rippleAdder {xs ys : Bits} (cin : Bool) (h : xs.length = ys.length) :
    (rippleAdder xs ys cin).1.length = xs.length := by
  induction xs generalizing ys cin with
  | nil => rfl
  | cons x xs ih =>
    obtain ⟨y, ys, rfl⟩ := List.exists_cons_of_length_eq_add_one h.symm
    exact congrArg (· + 1) (ih (fullAdder x y cin).2 (Nat.succ.inj h))

/-- The sum's bits with the carry-out on top are the exact sum (R133). -/
theorem rippleAdder_value {xs ys : Bits} (cin : Bool) (h : xs.length = ys.length) :
    bitsToNat (rippleAdder xs ys cin).1 + 2 ^ xs.length * (rippleAdder xs ys cin).2.toNat =
      bitsToNat xs + bitsToNat ys + cin.toNat := by
  induction xs generalizing ys cin with
  | nil =>
    obtain rfl := List.length_eq_zero_iff.1 h.symm
    simp [rippleAdder, bitsToNat]
  | cons x xs ih =>
    obtain ⟨y, ys, rfl⟩ := List.exists_cons_of_length_eq_add_one h.symm
    have hbit := fullAdder_value x y cin
    have hrest := ih (fullAdder x y cin).2 (Nat.succ.inj h)
    simp only [rippleAdder, bitsToNat, List.length_cons, Nat.pow_succ', Nat.mul_assoc]
    omega

/-- On the bits of two vectors the ripple-carry adder gives the wrapped sum and the carry out of the top bit
(R133). -/
theorem rippleAdder_bitsOf {n : Nat} (a b : BitVec n) (cin : Bool) :
    rippleAdder (bitsOf a) (bitsOf b) cin =
      (bitsOf (BitVec.ofNat n (a.toNat + b.toNat + cin.toNat)),
        decide (2 ^ n ≤ a.toNat + b.toNat + cin.toNat)) := by
  have hab : (bitsOf a).length = (bitsOf b).length := by simp
  have hlen := (length_rippleAdder cin hab).trans (length_bitsOf a)
  have hlt := hlen ▸ bitsToNat_lt (rippleAdder (bitsOf a) (bitsOf b) cin).1
  have hval := rippleAdder_value cin hab
  simp only [bitsToNat_bitsOf, length_bitsOf] at hval
  refine Prod.ext (bits_ext (by simp [hlen]) ?_) ?_
  · rw [bitsToNat_bitsOf, BitVec.toNat_ofNat, ← hval, Nat.add_mul_mod_self_left, Nat.mod_eq_of_lt hlt]
  · rw [← hval]
    cases (rippleAdder (bitsOf a) (bitsOf b) cin).2
    · simpa using hlt
    · simp

/-- A row of NOT gates is the complement. -/
theorem map_not_bitsOf {n : Nat} (b : BitVec n) : (bitsOf b).map (fun y => !y) = bitsOf (~~~b) :=
  List.ext_getElem (by simp) (by simp +contextual [bitsOf])

/-- XOR with one line inverts B when the line is 1 and passes it when it is 0 (R135). -/
theorem map_gateXor_bitsOf {n : Nat} (b : BitVec n) (line : Bool) :
    (bitsOf b).map (fun y => gateXor y line) = bitsOf (if line then ~~~b else b) := by
  cases line with
  | false => simp [gateXor, gateAnd, gateOr, gateNand, gateNot]
  | true => simp [gateXor, gateAnd, gateOr, gateNand, gateNot, map_not_bitsOf]

theorem zipWith_gateAnd_bitsOf {n : Nat} (a b : BitVec n) :
    List.zipWith gateAnd (bitsOf a) (bitsOf b) = bitsOf (a &&& b) :=
  List.ext_getElem (by simp) (by simp [bitsOf, gateAnd])

theorem zipWith_gateOr_bitsOf {n : Nat} (a b : BitVec n) :
    List.zipWith gateOr (bitsOf a) (bitsOf b) = bitsOf (a ||| b) :=
  List.ext_getElem (by simp) (by simp [bitsOf, gateOr])

/-- A multiplexer over two vectors passes the one its selector names (R115). -/
theorem mux2_bitsOf {n : Nat} (sel : Bool) (u v : BitVec n) :
    mux2 sel (bitsOf u) (bitsOf v) = bitsOf (if sel then v else u) := by
  rw [mux2_eq sel (by simp)]
  cases sel <;> rfl

/-- The zero output's NOR over all bits is 1 exactly when the bits stand for 0 (R135). -/
theorem gateNot_foldr_gateOr (xs : Bits) :
    gateNot (xs.foldr gateOr false) = decide (bitsToNat xs = 0) := by
  induction xs with
  | nil => rfl
  | cons x xs ih =>
    cases x with
    | false => simpa [gateOr, bitsToNat] using ih
    | true => simp [gateOr, gateNot, bitsToNat]

/-- The NOR over a vector's bits tests it for zero. -/
theorem gateNot_foldr_gateOr_bitsOf {n : Nat} (v : BitVec n) :
    gateNot ((bitsOf v).foldr gateOr false) = decide (v = 0#n) := by
  rw [gateNot_foldr_gateOr, bitsToNat_bitsOf, decide_eq_decide, ← BitVec.toNat_inj, BitVec.toNat_zero]

/-- The gate structure answers what the functional ALU does (R134, R135): both paths are evaluated on vectors, and
`op1` and `op0` pick the operation. -/
theorem aluGates_bitsOf (op1 op0 : Bool) (a b : Byte) :
    aluGates op1 op0 (bitsOf a) (bitsOf b) =
      (bitsOf (alu (AluOp.ofBits op1 op0) a b).result, (alu (AluOp.ofBits op1 op0) a b).carry,
        (alu (AluOp.ofBits op1 op0) a b).zero) := by
  simp only [aluGates, map_gateXor_bitsOf, rippleAdder_bitsOf, zipWith_gateAnd_bitsOf, zipWith_gateOr_bitsOf,
    mux2_bitsOf, gateNot_foldr_gateOr_bitsOf]
  cases op1 with
  | false => cases op0 <;> simp [AluOp.ofBits, alu, aluArith, gateAnd, gateNot]
  | true => cases op0 <;> simp [AluOp.ofBits, alu, aluLogic, gateAnd, gateNot]

end Sys2Proof.Machine
end

section
/-! The proofs of the statements about arithmetic and logic (`41_alu.md`). -/

namespace Sys2Proof.Machine

/-- Settles O54: the gates agree with the functional ALU, whose answers are those of byte arithmetic. -/
theorem aluStructureMatchesFunction : Obligations.AluStructureMatchesFunction :=
  ⟨aluGates_bitsOf, fun a b => ⟨alu_add_result a b, alu_add_carry_iff a b, alu_sub_result a b, rfl, rfl, rfl, rfl,
    fun op => alu_zero_iff op a b⟩⟩

/-- Settles O11: ADD is the ALU's write-back of a sum of two values read before it, so `rd = rs` needs no case of
its own. -/
theorem addWritesSumAndFlags : Obligations.AddWritesSumAndFlags := by
  refine ⟨decodeBytes_add, controlUnit_eq_signalRow 0x4#4, fun rd rs s => ⟨_, rfl, ?_, ?_, ?_,
    s.writeAlu_frame rd (alu .add (s.reg rd) (s.reg rs))⟩⟩
  · rw [State.writeAlu_reg_same, alu_add_result]
  · exact alu_add_carry_iff (s.reg rd) (s.reg rs)
  · exact s.writeAlu_z_iff rd .add (s.reg rd) (s.reg rs)

/-- Settles O12: SUB is the ALU's write-back of a difference. -/
theorem subWritesDifferenceAndFlags : Obligations.SubWritesDifferenceAndFlags := by
  refine ⟨decodeBytes_sub, controlUnit_eq_signalRow 0x5#4, fun rd rs s => ⟨_, rfl, ?_, ?_, ?_,
    s.writeAlu_frame rd (alu .sub (s.reg rd) (s.reg rs))⟩⟩
  · rw [State.writeAlu_reg_same, alu_sub_result]
  · exact alu_sub_carry_iff (s.reg rd) (s.reg rs)
  · exact alu_sub_zero_iff (s.reg rd) (s.reg rs)

/-- Settles O13: AND and OR are the ALU's write-back of a logic result, whose carry is 0. -/
theorem andOrWriteResultAndClearCarry : Obligations.AndOrWriteResultAndClearCarry := by
  refine ⟨decodeBytes_and, decodeBytes_or, controlUnit_eq_signalRow 0x6#4, controlUnit_eq_signalRow 0x7#4,
    fun rd rs s => ?_, fun rd rs s => ?_⟩
  · exact ⟨_, rfl, s.writeAlu_reg_same rd _, rfl, s.writeAlu_z_iff rd .and (s.reg rd) (s.reg rs),
      s.writeAlu_frame rd (alu .and (s.reg rd) (s.reg rs))⟩
  · exact ⟨_, rfl, s.writeAlu_reg_same rd _, rfl, alu_or_zero_iff (s.reg rd) (s.reg rs),
      s.writeAlu_frame rd (alu .or (s.reg rd) (s.reg rs))⟩

/-- Settles O14: CMP latches the flags of SUB. -/
theorem cmpWritesFlagsOnly : Obligations.CmpWritesFlagsOnly :=
  ⟨decodeBytes_cmp, controlUnit_eq_signalRow 0x9#4, fun rd rs s => ⟨_, rfl,
    alu_sub_carry_iff (s.reg rd) (s.reg rs), alu_sub_zero_iff (s.reg rd) (s.reg rs),
    s.latchFlags_frame (alu .sub (s.reg rd) (s.reg rs))⟩⟩

/-- Settles O15: ADDI is the ALU's write-back of a sum with the immediate. -/
theorem addiAddsUnsignedByte : Obligations.AddiAddsUnsignedByte := by
  refine ⟨decodeBytes_addi, controlUnit_eq_signalRow 0xD#4, fun rd imm s => ⟨_, rfl, ?_, ?_, ?_,
    s.writeAlu_frame rd (alu .add (s.reg rd) imm)⟩⟩
  · rw [State.writeAlu_reg_same, alu_add_result]
  · exact alu_add_carry_iff (s.reg rd) imm
  · exact s.writeAlu_z_iff rd .add (s.reg rd) imm

end Sys2Proof.Machine
end

section
/-! SUPPORT. What a change of `pc` or `sp` leaves alone, the two-byte stack operations as bus accesses at addresses
counted from the old stack pointer (R76, R77), and the decoder's arms of control transfer (R95, R96). -/

namespace Sys2Proof.Machine

@[simp] theorem State.byteAt_setPc (s : State) (v a : Addr) : (s.setPc v).byteAt a = s.byteAt a :=
  byteAt_congr (s.setPc_ram v) (s.setPc_tmr v) (s.setPc_uart v) a

/-- Loading the program counter changes nothing else (R150). -/
theorem State.setPc_frame (s : State) (a : Addr) :
    (s.setPc a).sp = s.sp ∧ RegsKept s (s.setPc a) ∧ FlagsKept s (s.setPc a) ∧
    InterruptStateKept s (s.setPc a) ∧ DevicesKept s (s.setPc a) ∧ OutsideKept s (s.setPc a) ∧
    BytesKept s (s.setPc a) :=
  ⟨rfl, fun _ => rfl, ⟨rfl, rfl⟩, ⟨rfl, rfl, rfl⟩, ⟨rfl, rfl⟩, ⟨rfl, rfl, rfl, rfl⟩,
    s.byteAt_setPc a⟩

@[simp] theorem State.byteAt_setSp (s : State) (v a : Addr) : (s.setSp v).byteAt a = s.byteAt a :=
  byteAt_congr (s.setSp_ram v) (s.setSp_tmr v) (s.setSp_uart v) a

/-- A bus read does not look at the stack pointer (R61). -/
theorem State.memRead_setSp (s : State) (p a : Addr) :
    (s.setSp p).memRead a = ((s.memRead a).1, (s.memRead a).2.setSp p) := by
  refine Prod.ext (s.byteAt_setSp p a) ?_
  rw [memRead_state, memRead_state]
  rfl

/-- A bus write does not look at the stack pointer (R62). -/
theorem State.memWrite_setSp (s : State) (p a : Addr) (v : Byte) :
    (s.setSp p).memWrite a v = (s.memWrite a v).setSp p := by
  unfold memWrite
  split
  · rfl
  · unfold ioWrite
    split <;> rfl

/-- `Push16` is two bus writes below the old stack pointer, the high byte first and higher (R76). -/
theorem State.push16_eq (s : State) (w : Addr) :
    s.push16 w = ((s.memWrite (s.sp - 1#16) (hi8 w)).memWrite (s.sp - 2#16) (lo8 w)).setSp (s.sp - 2#16) := by
  have hsp : s.sp - 1#16 - 1#16 = s.sp - 2#16 := BitVec.sub_sub ..
  simp only [push16, push8, memWrite_setSp, setSp_sp, hsp]
  rfl

/-- `Pop16` is the little-endian read at the old stack pointer, which then moves up by 2 (R73, R77). -/
theorem State.pop16_eq (s : State) :
    s.pop16 = ((s.read16LE s.sp).1, (s.read16LE s.sp).2.setSp (s.sp + 2#16)) := by
  have hsp : s.sp + 1#16 + 1#16 = s.sp + 2#16 := BitVec.add_assoc ..
  simp only [pop16, pop8, memRead_setSp, setSp_sp, hsp, read16LE]
  rfl

/-- `Push16` touches no field of the CPU but the stack pointer (R76). -/
theorem State.push16_frame (s : State) (w : Addr) :
    RegsKept s (s.push16 w) ∧ FlagsKept s (s.push16 w) ∧ InterruptStateKept s (s.push16 w) ∧
    OutsideKept s (s.push16 w) := by
  simp [RegsKept, reg, FlagsKept, InterruptStateKept, OutsideKept]

/-- `Pop16` touches no field of the CPU but the stack pointer (R77). -/
theorem State.pop16_frame (s : State) :
    RegsKept s s.pop16.2 ∧ FlagsKept s s.pop16.2 ∧ InterruptStateKept s s.pop16.2 ∧
    OutsideKept s s.pop16.2 := by
  simp [RegsKept, reg, FlagsKept, InterruptStateKept, OutsideKept]

/-- What `Push16` leaves at any address is what its two bus writes leave there. -/
theorem State.byteAt_push16 (s : State) (w a : Addr) :
    (s.push16 w).byteAt a =
      ((s.memWrite (s.sp - 1#16) (hi8 w)).memWrite (s.sp - 2#16) (lo8 w)).byteAt a := by
  rw [push16_eq, byteAt_setSp]

/-- `Push16` changes the read of its own two addresses alone (R76). -/
theorem State.byteAt_push16_other (s : State) (w : Addr) {a : Addr}
    (h : a ∉ [s.sp - 1#16, s.sp - 2#16]) : (s.push16 w).byteAt a = s.byteAt a := by
  obtain ⟨hhi, hlo⟩ : a ≠ s.sp - 1#16 ∧ a ≠ s.sp - 2#16 := by simpa using h
  rw [byteAt_push16, byteAt_memWrite_ne _ _ hlo, byteAt_memWrite_ne _ _ hhi]

/-- The high byte, pushed into RAM, is not overwritten by the low one (R76). -/
theorem State.byteAt_push16_hi (s : State) (w : Addr) (h : (s.sp - 1#16).toNat ≤ Config.ramLast) :
    (s.push16 w).byteAt (s.sp - 1#16) = hi8 w := by
  have hne : s.sp - 1#16 ≠ s.sp - 2#16 := by bv_omega
  rw [byteAt_push16, byteAt_memWrite_ne _ _ hne, byteAt_memWrite_same _ _ h]

theorem State.byteAt_push16_lo (s : State) (w : Addr) (h : (s.sp - 2#16).toNat ≤ Config.ramLast) :
    (s.push16 w).byteAt (s.sp - 2#16) = lo8 w := by
  rw [byteAt_push16, byteAt_memWrite_same _ _ h]

/-- A `Push16` whose two bytes lie in RAM reaches no device (R62, R76). -/
theorem State.push16_ram_devices (s : State) (w : Addr) (hhi : (s.sp - 1#16).toNat ≤ Config.ramLast)
    (hlo : (s.sp - 2#16).toNat ≤ Config.ramLast) : DevicesKept s (s.push16 w) := by
  obtain ⟨htmr, huart⟩ := s.memWrite_ram_devices (hi8 w) hhi
  obtain ⟨htmr', huart'⟩ := (s.memWrite (s.sp - 1#16) (hi8 w)).memWrite_ram_devices (lo8 w) hlo
  rw [push16_eq]
  exact ⟨htmr'.trans htmr, huart'.trans huart⟩

theorem decodeBytes_jmp (b0 b1 : Byte) (rd rs : BitVec 2) :
    decodeBytes b0 b1 (byte2 0xA#4 rd rs) = .jmp (imm16Field b0 b1) := by
  simp [decodeBytes]

theorem decodeBytes_jz (b0 b1 : Byte) (rd rs : BitVec 2) :
    decodeBytes b0 b1 (byte2 0xB#4 rd rs) = .jz (imm16Field b0 b1) := by
  simp [decodeBytes]

theorem decodeBytes_jnz (b0 b1 : Byte) (rd rs : BitVec 2) :
    decodeBytes b0 b1 (byte2 0xC#4 rd rs) = .jnz (imm16Field b0 b1) := by
  simp [decodeBytes]

/-- Byte 2 = 0x03 is RET in the misc dispatch (R96). -/
theorem decodeBytes_ret (b0 b1 : Byte) : decodeBytes b0 b1 0x03#8 = .ret :=
  decodeBytes_misc b0 b1 rfl

end Sys2Proof.Machine
end

section
/-! The proofs of the statements about control transfer (`42_control_transfer.md`). -/

namespace Sys2Proof.Machine

/-- Settles O16: JMP loads the program counter. -/
theorem jmpLoadsPc : Obligations.JmpLoadsPc :=
  ⟨decodeBytes_jmp, controlUnit_eq_signalRow 0xA#4, fun target s => ⟨_, rfl, rfl, s.setPc_frame target⟩⟩

/-- Settles O17: both jumps load the program counter, with the target or with the value it has (`nextState`), so the
frame is JMP's. -/
theorem jzJnzTestZeroFlag : Obligations.JzJnzTestZeroFlag := by
  refine ⟨decodeBytes_jz, decodeBytes_jnz, controlUnit_eq_signalRow 0xB#4, controlUnit_eq_signalRow 0xC#4,
    fun target s => ?_, fun target s => ?_⟩
  · exact ⟨_, exec_of_wellFormed rfl s, fun hz => if_pos hz, fun hz => if_neg (Bool.eq_false_iff.1 hz),
      s.setPc_frame _⟩
  · exact ⟨_, exec_of_wellFormed rfl s, fun hz => if_neg (Bool.eq_false_iff.1 hz), fun hz => if_pos hz,
      s.setPc_frame _⟩

/-- Settles O18: CALL is `Push16` of the advanced pc, then a jump; the two bytes are distinct addresses, so the low
byte's write keeps the high byte. -/
theorem callPushesReturnAddress : Obligations.CallPushesReturnAddress := by
  refine ⟨fun b0 b1 rd rs => decodeBytes_call b0 b1 (opcodeField_byte2 0xE#4 rd rs),
    controlUnit_eq_signalRow 0xE#4, fun target s => ?_⟩
  refine ⟨_, rfl, rfl, s.push16_sp s.pc, ?_, fun hhi hlo => ⟨?_, ?_, s.push16_ram_devices s.pc hhi hlo⟩,
    fun a _ ha => ?_, s.push16_frame s.pc⟩
  · rw [State.push16_eq]
    exact ⟨rfl, rfl, rfl⟩
  · rw [State.byteAt_setPc, s.byteAt_push16_hi s.pc hhi]
  · rw [State.byteAt_setPc, s.byteAt_push16_lo s.pc hlo]
  · rw [State.byteAt_setPc, s.byteAt_push16_other s.pc ha]

/-- Settles O19: RET is `Pop16` into the program counter, two bus reads, which change no RAM byte. -/
theorem retPopsReturnAddress : Obligations.RetPopsReturnAddress := by
  refine ⟨decodeBytes_ret, fun s => ?_⟩
  refine ⟨_, rfl, s.pop16_sp, ⟨?_, ?_⟩, fun a ha _ => ?_, s.pop16_tmr, s.pop16_frame⟩
  · rw [State.setPc_pc, State.pop16_eq]
    exact toNat_imm16Field ..
  · rw [State.setPc_uart, State.pop16_eq]
    rfl
  · rw [State.byteAt_setPc, State.byteAt_ram _ ha, State.byteAt_ram _ ha, State.pop16_ram]

end Sys2Proof.Machine
end


section
/-! SUPPORT. The one-byte stack operations as one bus access and one move of the stack pointer (R74, R75), and the
decoder's arms of PUSH and POP (R96). -/

namespace Sys2Proof.Machine

/-- `Push8` is one bus write just below the old stack pointer, which then stands there (R74). -/
theorem State.push8_eq (s : State) (v : Byte) :
    s.push8 v = (s.memWrite (s.sp - 1#16) v).setSp (s.sp - 1#16) :=
  s.memWrite_setSp (s.sp - 1#16) (s.sp - 1#16) v

/-- What `Push8` leaves at any address is what its bus write leaves there. -/
theorem State.byteAt_push8 (s : State) (v : Byte) (a : Addr) :
    (s.push8 v).byteAt a = (s.memWrite (s.sp - 1#16) v).byteAt a := by
  rw [push8_eq, byteAt_setSp]

/-- `Push8` touches no field of the CPU but the stack pointer (R74). -/
theorem State.push8_frame (s : State) (v : Byte) :
    (s.push8 v).pc = s.pc ∧ RegsKept s (s.push8 v) ∧ FlagsKept s (s.push8 v) ∧
    InterruptStateKept s (s.push8 v) ∧ OutsideKept s (s.push8 v) := by
  simp [RegsKept, reg, FlagsKept, InterruptStateKept, OutsideKept]

/-- A `Push8` into RAM reaches no device (R62, R74). -/
theorem State.push8_ram_devices (s : State) (v : Byte) (h : (s.sp - 1#16).toNat ≤ Config.ramLast) :
    DevicesKept s (s.push8 v) := by
  rw [push8_eq]
  exact s.memWrite_ram_devices v h

/-- What `Pop8` leaves at any address is what its bus read leaves there (R75). -/
theorem State.byteAt_pop8 (s : State) (a : Addr) : s.pop8.2.byteAt a = (s.memRead s.sp).2.byteAt a :=
  (s.memRead s.sp).2.byteAt_setSp (s.sp + 1#16) a

/-- `Pop8` touches no field of the CPU but the stack pointer (R75). -/
theorem State.pop8_frame (s : State) :
    s.pop8.2.pc = s.pc ∧ RegsKept s s.pop8.2 ∧ FlagsKept s s.pop8.2 ∧ InterruptStateKept s s.pop8.2 ∧
    OutsideKept s s.pop8.2 := by
  simp [RegsKept, reg, FlagsKept, InterruptStateKept, OutsideKept]

theorem decodeBytes_push (b0 b1 : Byte) (rd : Reg) :
    decodeBytes b0 b1 (byte2 0x0#4 rd.sel 1#2) = .push rd := by
  simp [decodeBytes, decodeMisc]

theorem decodeBytes_pop (b0 b1 : Byte) (rd : Reg) :
    decodeBytes b0 b1 (byte2 0x0#4 rd.sel 2#2) = .pop rd := by
  simp [decodeBytes, decodeMisc]

end Sys2Proof.Machine
end

section
/-! The proofs of the statements about the stack (`43_stack.md`). -/

namespace Sys2Proof.Machine

/-- Settles O20: PUSH is `Push8` of the register: a bus write, which changes the read of its own address alone, then
the move of the stack pointer. -/
theorem pushWritesBelowSp : Obligations.PushWritesBelowSp := by
  refine ⟨decodeBytes_push, fun rd s => ?_⟩
  refine ⟨_, rfl, s.push8_sp (s.reg rd), ?_, fun h => ⟨?_, s.push8_ram_devices (s.reg rd) h⟩, fun b hb => ?_,
    s.push8_frame (s.reg rd)⟩
  · rw [State.push8_eq]
    exact ⟨rfl, rfl, rfl⟩
  · rw [State.byteAt_push8, s.byteAt_memWrite_same (s.reg rd) h]
  · rw [State.byteAt_push8, s.byteAt_memWrite_ne (s.reg rd) hb]

/-- Settles O21: POP is `Pop8`, one bus read and the move of the stack pointer, then one register write; the read
keeps RAM, and the whole state anywhere but at the UART's data register. -/
theorem popReadsAtSp : Obligations.PopReadsAtSp := by
  refine ⟨decodeBytes_pop, fun rd s => ?_⟩
  have hrd : (s.pop8.2.setReg rd s.pop8.1).reg rd = (s.memRead s.sp).1 := State.reg_setReg_same ..
  obtain ⟨hpc, hregs, hflags, hint, hout⟩ := s.pop8_frame
  obtain ⟨hregs', -, -, -, -, -, hbytes⟩ := s.pop8.2.setReg_frame rd s.pop8.1
  refine ⟨_, rfl, s.pop8_sp, hrd, rfl, fun h => ?_, fun h b => ?_, fun b hb hn => ?_, s.pop8_tmr, hpc,
    fun q hq => ?_, hflags, hint, hout⟩
  · rw [hrd, s.memRead_of_ram h]
  · rw [hbytes b, State.byteAt_pop8, s.memRead_state_of_ne h]
  · rw [hbytes b, State.byteAt_pop8, s.memRead_ramKept s.sp b hb hn]
  · exact (hregs' q hq).trans (hregs q)

end Sys2Proof.Machine
end

section
/-! SUPPORT. Interrupt entry and return as bus accesses at addresses counted from the old stack pointer (R168, R186),
their frames, and the decoder's arms of the system instructions (R95, R96). -/

namespace Sys2Proof.Machine

@[simp] theorem State.byteAt_setHalted (s : State) (v : Bool) (a : Addr) :
    (s.setHalted v).byteAt a = s.byteAt a :=
  byteAt_congr (s.setHalted_ram v) (s.setHalted_tmr v) (s.setHalted_uart v) a

@[simp] theorem State.byteAt_setIe (s : State) (v : Bool) (a : Addr) : (s.setIe v).byteAt a = s.byteAt a :=
  byteAt_congr (s.setIe_ram v) (s.setIe_tmr v) (s.setIe_uart v) a

/-- A bus read does not look at the interrupt enable (R61). -/
theorem State.memRead_setIe (s : State) (b : Bool) (a : Addr) :
    (s.setIe b).memRead a = ((s.memRead a).1, (s.memRead a).2.setIe b) := by
  refine Prod.ext (s.byteAt_setIe b a) ?_
  rw [memRead_state, memRead_state]
  rfl

theorem State.read16LE_setIe (s : State) (b : Bool) (a : Addr) :
    (s.setIe b).read16LE a = ((s.read16LE a).1, (s.read16LE a).2.setIe b) := by
  simp only [read16LE, memRead_setIe]

theorem State.read16LE_setSp (s : State) (p a : Addr) :
    (s.setSp p).read16LE a = ((s.read16LE a).1, (s.read16LE a).2.setSp p) := by
  simp only [read16LE, memRead_setSp]

/-- The vector's address in the arithmetic of numbers, also above interrupt 7 (R186, decision D15). -/
theorem vectorAddr_eq (n : Byte) : vectorAddr n = BitVec.ofNat 16 (0xEFF0 + 2 * n.toNat) := by
  simp only [vectorAddr, Config.ivtBase, BitVec.ofNat_add, BitVec.ofNat_mul, BitVec.ofNat_toNat]

/-- The state with an interrupt's three-byte frame stored below the stack pointer, by the bus and in this order: the
two bytes of pc, then the packed flags (R186). `enterInterrupt_eq` ties it to interrupt entry. -/
def State.storeFrame (s : State) : State :=
  ((s.memWrite (s.sp - 1#16) (hi8 s.pc)).memWrite (s.sp - 2#16) (lo8 s.pc)).memWrite (s.sp - 3#16) s.packFlags

/-- Storing the frame changes the read of its own three addresses alone (R186). -/
theorem State.byteAt_storeFrame_other (s : State) {a : Addr}
    (h : a ∉ [s.sp - 1#16, s.sp - 2#16, s.sp - 3#16]) : s.storeFrame.byteAt a = s.byteAt a := by
  obtain ⟨hhi, hlo, hf⟩ : a ≠ s.sp - 1#16 ∧ a ≠ s.sp - 2#16 ∧ a ≠ s.sp - 3#16 := by simpa using h
  rw [storeFrame, byteAt_memWrite_ne _ _ hf, byteAt_memWrite_ne _ _ hlo, byteAt_memWrite_ne _ _ hhi]

/-- The pushes of interrupt entry store the frame and move the stack pointer below it (R74, R76, R186). -/
theorem State.push16_push8_eq_storeFrame (s : State) :
    (s.push16 s.pc).push8 s.packFlags = s.storeFrame.setSp (s.sp - 3#16) := by
  have hsp : s.sp - 2#16 - 1#16 = s.sp - 3#16 := BitVec.sub_sub ..
  rw [push8_eq, push16_eq, setSp_sp, hsp, memWrite_setSp]
  rfl

/-- Interrupt entry stores the frame, and only then reads the vector; the moves of sp, IE and pc are no bus access
(R186). -/
theorem State.enterInterrupt_eq (s : State) (n : Byte) :
    s.enterInterrupt n =
      (((s.storeFrame.read16LE (vectorAddr n)).2.setSp (s.sp - 3#16)).setIe false).setPc
        (s.storeFrame.read16LE (vectorAddr n)).1 := by
  simp only [enterInterrupt, push16_push8_eq_storeFrame, read16LE_setIe, read16LE_setSp]

@[simp] theorem State.enterInterrupt_ram (s : State) (n : Byte) : (s.enterInterrupt n).ram = s.storeFrame.ram := by
  simp [enterInterrupt_eq]

@[simp] theorem State.enterInterrupt_tmr (s : State) (n : Byte) : (s.enterInterrupt n).tmr = s.storeFrame.tmr := by
  simp [enterInterrupt_eq]

/-- Interrupt entry changes no RAM byte outside the frame it stores (R186). -/
theorem State.enterInterrupt_ramKept (s : State) (n : Byte) :
    RamKeptOutside [s.sp - 1#16, s.sp - 2#16, s.sp - 3#16] s (s.enterInterrupt n) := by
  intro a ha hout
  calc (s.enterInterrupt n).byteAt a
      = s.storeFrame.byteAt a := by rw [byteAt_ram _ ha, byteAt_ram _ ha, enterInterrupt_ram]
    _ = s.byteAt a := s.byteAt_storeFrame_other hout

/-- Interrupt entry touches no field of the CPU but sp, IE and pc (R186). -/
theorem State.enterInterrupt_frame (s : State) (n : Byte) :
    (s.enterInterrupt n).pend = s.pend ∧ (s.enterInterrupt n).halted = s.halted ∧
    RegsKept s (s.enterInterrupt n) ∧ FlagsKept s (s.enterInterrupt n) ∧ OutsideKept s (s.enterInterrupt n) := by
  simp [RegsKept, reg, FlagsKept, OutsideKept]

/-- The return from an interrupt reads the flags byte, then the return address above it (R168). -/
theorem State.returnFromInterrupt_eq (s : State) :
    s.returnFromInterrupt =
      ((((s.memRead s.sp).2.read16LE (s.sp + 1#16)).2.setSp (s.sp + 3#16)).unpackFlags (s.memRead s.sp).1).setPc
        ((s.memRead s.sp).2.read16LE (s.sp + 1#16)).1 := by
  have hsp : s.sp + 1#16 + 2#16 = s.sp + 3#16 := BitVec.add_assoc ..
  simp only [returnFromInterrupt, pop8, pop16_eq, setSp_sp, read16LE_setSp, hsp]
  rfl

/-- The return from an interrupt changes no RAM byte (R168). -/
theorem State.returnFromInterrupt_ramKept (s : State) : RamKeptOutside [] s s.returnFromInterrupt := by
  intro a ha _
  rw [byteAt_ram _ ha, byteAt_ram _ ha, returnFromInterrupt_ram]

/-- The return from an interrupt touches no field of the CPU but sp, the flags, IE and pc, and no timer (R168). -/
theorem State.returnFromInterrupt_frame (s : State) :
    s.returnFromInterrupt.pend = s.pend ∧ s.returnFromInterrupt.halted = s.halted ∧
    RamKeptOutside [] s s.returnFromInterrupt ∧ s.returnFromInterrupt.tmr = s.tmr ∧
    RegsKept s s.returnFromInterrupt ∧ OutsideKept s s.returnFromInterrupt := by
  simp [RegsKept, reg, OutsideKept, returnFromInterrupt_ramKept]

/-- Setting the halt flag changes nothing else (R170). -/
theorem State.setHalted_frame (s : State) (v : Bool) :
    (s.setHalted v).ie = s.ie ∧ (s.setHalted v).pend = s.pend ∧ PointersKept s (s.setHalted v) ∧
    RegsKept s (s.setHalted v) ∧ FlagsKept s (s.setHalted v) ∧ DevicesKept s (s.setHalted v) ∧
    OutsideKept s (s.setHalted v) ∧ BytesKept s (s.setHalted v) :=
  ⟨rfl, rfl, ⟨rfl, rfl⟩, fun _ => rfl, ⟨rfl, rfl⟩, ⟨rfl, rfl⟩, ⟨rfl, rfl, rfl, rfl⟩, s.byteAt_setHalted v⟩

theorem decodeBytes_hlt (b0 b1 : Byte) (rd rs : BitVec 2) : decodeBytes b0 b1 (byte2 0xF#4 rd rs) = .hlt := by
  simp [decodeBytes]

/-- Byte 2 = 0x00 is NOP in the misc dispatch (R96). -/
theorem decodeBytes_nop (b0 b1 : Byte) : decodeBytes b0 b1 0x00#8 = .nop :=
  decodeBytes_misc b0 b1 rfl

/-- Byte 2 = 0x0C is RTI in the misc dispatch (R96). -/
theorem decodeBytes_rti (b0 b1 : Byte) : decodeBytes b0 b1 0x0C#8 = .rti :=
  decodeBytes_misc b0 b1 rfl

/-- Byte 2 = 0x07 is SWI in the misc dispatch (R96). -/
theorem decodeBytes_swi (b0 b1 : Byte) : decodeBytes b0 b1 0x07#8 = .swi b0 :=
  decodeBytes_misc b0 b1 rfl

end Sys2Proof.Machine
end

section
/-! The proofs of the statements about the system instructions (`44_system.md`). -/

namespace Sys2Proof.Machine

/-- Settles O22: NOP leaves the fetched state as it is, HLT is one write of the halt flag. -/
theorem nopAndHltEffects : Obligations.NopAndHltEffects :=
  ⟨decodeBytes_nop, decodeBytes_hlt, controlUnit_eq_signalRow 0xF#4, fun _ => rfl,
    fun s => ⟨_, rfl, rfl, s.setHalted_frame true⟩⟩

/-- Settles O24: RTI is the return from an interrupt, three bus reads, which change no RAM byte. -/
theorem rtiRestoresFlagsAndPc : Obligations.RtiRestoresFlagsAndPc := by
  refine ⟨decodeBytes_rti, fun s => ?_⟩
  have hsp : s.sp + 1#16 + 1#16 = s.sp + 2#16 := BitVec.add_assoc ..
  refine ⟨_, rfl, s.returnFromInterrupt_sp, ⟨s.returnFromInterrupt_z, s.returnFromInterrupt_c,
    s.returnFromInterrupt_ie, ?_, ?_⟩, s.returnFromInterrupt_frame⟩
  · rw [State.returnFromInterrupt_eq, State.setPc_pc, ← hsp]
    exact toNat_imm16Field ..
  · rw [State.returnFromInterrupt_eq, ← hsp]
    rfl

/-- Settles O25: SWI is interrupt entry, which looks at neither IE nor `pend`: three bus writes, then the two reads of
the vector, which change no RAM byte. -/
theorem swiEntersHandler : Obligations.SwiEntersHandler := by
  refine ⟨decodeBytes_swi, fun n s => ?_⟩
  refine ⟨_, rfl, s.enterInterrupt_ie n, s.enterInterrupt_sp n, ⟨?_, s.enterInterrupt_ram n, s.enterInterrupt_tmr n,
    ?_⟩, s.enterInterrupt_ramKept n, s.enterInterrupt_frame n⟩
  · rw [State.enterInterrupt_eq, State.setPc_pc, vectorAddr_eq]
    exact toNat_imm16Field ..
  · rw [State.enterInterrupt_eq, vectorAddr_eq]
    rfl

end Sys2Proof.Machine
end

section
/-! SUPPORT. One bit of the pending mask, what interrupt entry leaves in its frame, and a host's load as bus writes
(R182, R184, R187, R223). -/

namespace Sys2Proof.Machine

/-- With IE set and something pending, the lowest pending interrupt is due (R184, R185). -/
theorem State.dispatchable_of_pending {s : State} (hie : s.ie = true) (hpend : s.pend ≠ 0#8) :
    ∃ n, s.dispatchable = some n ∧ lowestPending s.pend = some n := by
  have hdue : s.dispatchable = lowestPending s.pend := if_pos hie
  cases hlow : lowestPending s.pend with
  | none => exact absurd (lowestPending_none hlow) hpend
  | some n => exact ⟨n, hdue.trans hlow, rfl⟩

/-- A CPU step on which interrupt `n` is due dispatches it, without a fetch (R97, R184). -/
theorem cpuStep_of_dispatchable {s : State} {n : Nat} (hh : s.halted = false) (hn : s.dispatchable = some n) :
    cpuStep s = .next (s.takeInterrupt n) := by
  simp [cpuStep, hh, hn]

/-- Clearing interrupt `n`'s bit clears that bit and no other (R184). -/
theorem getLsbD_clear_irqBit (p : BitVec 8) {n : Nat} (hn : n < 8) :
    (p &&& ~~~ irqBit n).getLsbD n = false ∧
    ∀ m, m ≠ n → (p &&& ~~~ irqBit n).getLsbD m = p.getLsbD m := by
  refine ⟨by simp [getLsbD_irqBit, hn], fun m hm => ?_⟩
  have hbelow : p.getLsbD m = true → m < 8 := BitVec.lt_of_getLsbD
  simpa [getLsbD_irqBit, Ne.symm hm] using hbelow

/-- Setting interrupt `n`'s bit sets that bit and no other (R182). -/
theorem getLsbD_set_irqBit (p : BitVec 8) {n : Nat} (hn : n < 8) :
    (p ||| irqBit n).getLsbD n = true ∧ ∀ m, m ≠ n → (p ||| irqBit n).getLsbD m = p.getLsbD m :=
  ⟨by simp [getLsbD_irqBit, hn], fun m hm => by simp [getLsbD_irqBit, Ne.symm hm]⟩

/-- A raise in range is one write of the pending mask (R182). -/
theorem State.raiseInterrupt_of_le (s : State) {n : Nat} (h : n ≤ 7) :
    s.raiseInterrupt n = s.setPend (s.pend ||| irqBit n) :=
  if_pos h

/-- The flags byte as a number: Z, C and IE in its three low bits, 0 above (R29, R187). -/
theorem State.packFlags_toNat (s : State) : s.packFlags.toNat = s.z.toNat + 2 * s.c.toNat + 4 * s.ie.toNat := by
  calc s.packFlags.toNat
      = ((((0#5).concat s.ie).concat s.c).concat s.z).toNat := rfl
    _ = s.z.toNat + 2 * s.c.toNat + 4 * s.ie.toNat := by
        simp only [BitVec.toNat_concat, BitVec.toNat_ofNat]
        omega

/-- No bus read touches the transmit queue (R212). -/
@[simp] theorem State.memRead_uart_tx (s : State) (a : Addr) : (s.memRead a).2.uart.tx = s.uart.tx := by
  rw [memRead_state, setUart_uart]
  split
  · rw [Uart.readData_eq]
  · rfl

/-- Interrupt entry sends exactly what its frame's bytes send; reading the vector sends nothing (R186, R212). -/
theorem State.enterInterrupt_uart_tx (s : State) (n : Byte) :
    (s.enterInterrupt n).uart.tx = s.storeFrame.uart.tx := by
  simp [enterInterrupt_eq, read16LE]

/-- Reading the vector changes no RAM byte, so after an interrupt entry RAM reads as the stored frame left it (R186). -/
theorem State.byteAt_enterInterrupt_ram (s : State) (n : Byte) {a : Addr} (h : a.toNat ≤ Config.ramLast) :
    (s.enterInterrupt n).byteAt a = s.storeFrame.byteAt a := by
  rw [byteAt_ram _ h, byteAt_ram _ h, enterInterrupt_ram]

/-- A frame stored in RAM reads back, its three addresses being distinct, and reaches no device (R187). -/
theorem State.storeFrame_in_ram (s : State) (hhi : (s.sp - 1#16).toNat ≤ Config.ramLast)
    (hlo : (s.sp - 2#16).toNat ≤ Config.ramLast) (hf : (s.sp - 3#16).toNat ≤ Config.ramLast) :
    s.storeFrame.byteAt (s.sp - 1#16) = hi8 s.pc ∧ s.storeFrame.byteAt (s.sp - 2#16) = lo8 s.pc ∧
    s.storeFrame.byteAt (s.sp - 3#16) = s.packFlags ∧ s.storeFrame.tmr = s.tmr := by
  have h12 : s.sp - 1#16 ≠ s.sp - 2#16 := by bv_omega
  have h13 : s.sp - 1#16 ≠ s.sp - 3#16 := by bv_omega
  have h23 : s.sp - 2#16 ≠ s.sp - 3#16 := by bv_omega
  unfold storeFrame
  refine ⟨?_, ?_, byteAt_memWrite_same _ _ hf, ?_⟩
  · rw [byteAt_memWrite_ne _ _ h13, byteAt_memWrite_ne _ _ h12, byteAt_memWrite_same _ _ hhi]
  · rw [byteAt_memWrite_ne _ _ h23, byteAt_memWrite_same _ _ hlo]
  · rw [(memWrite_ram_devices _ _ hf).1, (memWrite_ram_devices _ _ hlo).1, (memWrite_ram_devices _ _ hhi).1]

/-- A load touches no field of the CPU and nothing of the host's side (R223). -/
theorem State.hostLoad_frame (s : State) (bytes : List Byte) (a : Addr) :
    RegsKept s (s.hostLoad bytes a) ∧ FlagsKept s (s.hostLoad bytes a) ∧ PointersKept s (s.hostLoad bytes a) ∧
    InterruptStateKept s (s.hostLoad bytes a) ∧ OutsideKept s (s.hostLoad bytes a) := by
  obtain ⟨hx, hpc, hsp, hz, hc, hie, hpend, hhalted, hout⟩ := s.hostLoad_keeps bytes a
  exact ⟨fun q => congrArg (RegFile.get · q) hx, ⟨hz, hc⟩, ⟨hpc, hsp⟩, ⟨hie, hpend, hhalted⟩, hout⟩

/-- The address of a load's byte `k + 1` is that of byte `k` counted from the next address (R223). -/
theorem addr_add_succ (a : Addr) (k : Nat) :
    a + BitVec.ofNat 16 (k + 1) = a + 1#16 + BitVec.ofNat 16 k := by
  rw [Nat.add_comm, BitVec.ofNat_add, BitVec.add_assoc]

/-- A load changes the read of its own addresses alone, wherever these lie (R62, R223). -/
theorem State.byteAt_hostLoad_other (s : State) (bytes : List Byte) (a : Addr) {b : Addr}
    (h : ∀ k, k < bytes.length → b ≠ a + BitVec.ofNat 16 k) : (s.hostLoad bytes a).byteAt b = s.byteAt b := by
  induction bytes generalizing s a with
  | nil => rfl
  | cons v bytes ih =>
    have hfirst : b ≠ a := by simpa using h 0 (Nat.succ_pos _)
    have hrest : ∀ k, k < bytes.length → b ≠ a + 1#16 + BitVec.ofNat 16 k := fun k hk =>
      addr_add_succ a k ▸ h (k + 1) (Nat.succ_lt_succ hk)
    calc (s.hostLoad (v :: bytes) a).byteAt b
        = (s.memWrite a v).byteAt b := ih (s.memWrite a v) (a + 1#16) hrest
      _ = s.byteAt b := s.byteAt_memWrite_ne v hfirst

/-- A load that ends in RAM starts there, and so does the load of the bytes after its first. -/
theorem load_cons_in_ram {a : Addr} {n : Nat} (h : a.toNat + (n + 1) ≤ 0xF000) :
    a.toNat ≤ Config.ramLast ∧ (a + 1#16).toNat + n ≤ 0xF000 := by
  have hnext : (a + 1#16).toNat = a.toNat + 1 := by bv_omega
  simp only [Config.ramLast]
  omega

/-- Each byte of a load into RAM reads back: no later byte of the load is written to its address (R223). -/
theorem State.byteAt_hostLoad_own (s : State) (bytes : List Byte) (a : Addr)
    (h : a.toNat + bytes.length ≤ 0xF000) {k : Nat} (hk : k < bytes.length) :
    (s.hostLoad bytes a).byteAt (a + BitVec.ofNat 16 k) = bytes.getD k 0x00#8 := by
  induction bytes generalizing s a k with
  | nil => exact absurd hk (Nat.not_lt_zero k)
  | cons v bytes ih =>
    obtain ⟨hfirst, hrest⟩ := load_cons_in_ram h
    cases k with
    | zero =>
      have hlater : ∀ j, j < bytes.length → a ≠ a + 1#16 + BitVec.ofNat 16 j := fun j hj => by bv_omega
      calc (s.hostLoad (v :: bytes) a).byteAt (a + BitVec.ofNat 16 0)
          = ((s.memWrite a v).hostLoad bytes (a + 1#16)).byteAt a := by rw [BitVec.add_zero]; rfl
        _ = (s.memWrite a v).byteAt a := byteAt_hostLoad_other _ bytes (a + 1#16) hlater
        _ = v := s.byteAt_memWrite_same v hfirst
    | succ k =>
      rw [addr_add_succ]
      exact ih (s.memWrite a v) (a + 1#16) hrest (Nat.lt_of_succ_lt_succ hk)

/-- A load into RAM reaches no device (R62, R223). -/
theorem State.hostLoad_ram_devices (s : State) (bytes : List Byte) (a : Addr)
    (h : a.toNat + bytes.length ≤ 0xF000) : DevicesKept s (s.hostLoad bytes a) := by
  induction bytes generalizing s a with
  | nil => exact ⟨rfl, rfl⟩
  | cons v bytes ih =>
    obtain ⟨hfirst, hrest⟩ := load_cons_in_ram h
    obtain ⟨htmr, huart⟩ := s.memWrite_ram_devices v hfirst
    obtain ⟨htmr', huart'⟩ := ih (s.memWrite a v) (a + 1#16) hrest
    exact ⟨htmr'.trans htmr, huart'.trans huart⟩

end Sys2Proof.Machine
end

section
/-! The proofs of the statements about interrupts, the UART and the host (`60_exceptions.md`). -/

namespace Sys2Proof.Machine

/-- Settles O5: the dispatch clears the bit of the lowest pending number and enters it from the state before any
fetch. -/
theorem dispatchTakesLowestPending : Obligations.DispatchTakesLowestPending := by
  intro s hh hie hpend
  obtain ⟨n, hdue, hlow⟩ := State.dispatchable_of_pending hie hpend
  obtain ⟨hn, hset, hlowest⟩ := lowestPending_some hlow
  obtain ⟨hclear, hothers⟩ := getLsbD_clear_irqBit s.pend hn
  exact ⟨n, hn, hset, hlowest, _, hclear, hothers, cpuStep_of_dispatchable hh hdue⟩

/-- Settles O34: the entry is the three bus writes of the frame (`storeFrame`), then the vector's two reads, which
change at most the receive queue. -/
theorem interruptFrameLayout : Obligations.InterruptFrameLayout := by
  intro s n
  obtain ⟨hpend, hhalted, hkept⟩ := s.enterInterrupt_frame n
  refine ⟨⟨s.enterInterrupt_ram n, s.enterInterrupt_tmr n, s.enterInterrupt_uart_tx n⟩, s.packFlags_toNat,
    fun hhi hlo hf => ?_, s.enterInterrupt_ramKept n, s.enterInterrupt_sp n, s.enterInterrupt_ie n, hpend, hhalted,
    hkept⟩
  rw [s.byteAt_enterInterrupt_ram n hhi, s.byteAt_enterInterrupt_ram n hlo, s.byteAt_enterInterrupt_ram n hf,
    s.enterInterrupt_tmr n]
  exact s.storeFrame_in_ram hhi hlo hf

/-- Settles O50, by induction on the bytes: a load changes the read of its own addresses alone, and these are distinct
as long as the load does not wrap. -/
theorem loadProgramWritesBytes : Obligations.LoadProgramWritesBytes := by
  refine ⟨fun _ _ _ _ => ⟨rfl, rfl⟩, fun s bytes a => s.hostLoad_frame bytes a, fun s bytes a h => ?_⟩
  refine ⟨fun k => s.byteAt_hostLoad_own bytes a h, fun b _ hout => ?_, s.hostLoad_ram_devices bytes a h⟩
  exact s.byteAt_hostLoad_other bytes a fun k hk => by bv_omega

/-- Settles O30: the write is the append, the read takes the head of the receive queue if there is one. -/
theorem uartDataRegisterQueues : Obligations.UartDataRegisterQueues :=
  ⟨fun _ _ => rfl, fun tx => Uart.readData_eq ⟨[], tx⟩, fun v rx tx => Uart.readData_eq ⟨v :: rx, tx⟩⟩

/-- Settles O49: the push is the append, then the raise of interrupt 2, one write of the pending mask. -/
theorem hostUartActions : Obligations.HostUartActions := by
  refine ⟨fun s b => ?_, fun _ => rfl⟩
  obtain ⟨hset, hothers⟩ := getLsbD_set_irqBit s.pend (n := Config.uartIrq) (by decide)
  exact ⟨_, hset, hothers, (s.setUart (s.uart.pushRx b)).raiseInterrupt_of_le (by decide)⟩

end Sys2Proof.Machine
end

section
/-! SUPPORT. The decoder on encoded instructions and on byte 2 alone (R91, R95, R96, R107). -/

namespace Sys2Proof.Machine

/-- Decoding what the encoder packs: the immediate's two bytes, then byte 2 (R91, R94). -/
theorem decode_encodeWith (op : BitVec 4) (rd rs : BitVec 2) (imm : Addr) (rest : List Byte) :
    decode (encodeWith op rd rs imm ++ rest) =
      .ok (decodeBytes (lo8 imm) (hi8 imm) (byte2 op rd rs), rest) := rfl

/-- Byte 2 = 0x04 is CLI in the misc dispatch (R96). -/
theorem decodeBytes_cli (b0 b1 : Byte) : decodeBytes b0 b1 0x04#8 = .cli :=
  decodeBytes_misc b0 b1 rfl

/-- Byte 2 = 0x08 is STI in the misc dispatch (R96). -/
theorem decodeBytes_sti (b0 b1 : Byte) : decodeBytes b0 b1 0x08#8 = .sti :=
  decodeBytes_misc b0 b1 rfl

/-- Byte 2 = 0x0B is the first reserved encoding (R108). -/
theorem decodeBytes_reserved0B (b0 b1 : Byte) : decodeBytes b0 b1 0x0B#8 = .reserved0B :=
  decodeBytes_misc b0 b1 rfl

/-- Byte 2 = 0x0F is the second reserved encoding (R108). -/
theorem decodeBytes_reserved0F (b0 b1 : Byte) : decodeBytes b0 b1 0x0F#8 = .reserved0F :=
  decodeBytes_misc b0 b1 rfl

/-- The misc dispatch reads byte 0 for SWI alone (R96). -/
theorem decodeMisc_eq (b0 b2 : Byte) :
    decodeMisc b0 b2 = if rsField b2 = 3#2 ∧ rdField b2 = 1#2 then .swi b0 else decodeMisc 0 b2 := by
  unfold decodeMisc
  generalize rsField b2 = rs, rdField b2 = rd
  match rs, rd with
  | 1#2, _ | 2#2, _ => simp
  | 0#2, 0#2 | 0#2, 1#2 | 0#2, 2#2 | 0#2, 3#2 | 3#2, 0#2 | 3#2, 1#2 | 3#2, 2#2 | 3#2, 3#2 => rfl

/-- In the misc dispatch too the constructor does not depend on byte 0. -/
theorem ctorIdx_decodeMisc (b0 c0 b2 : Byte) : (decodeMisc b0 b2).ctorIdx = (decodeMisc c0 b2).ctorIdx := by
  rw [decodeMisc_eq b0, decodeMisc_eq c0]
  split <;> rfl

/-- Byte 2 alone selects the constructor (R95): each opcode's arm is one constructor, but for the misc dispatch. -/
theorem ctorIdx_decodeBytes (b0 b1 c0 c1 b2 : Byte) :
    (decodeBytes b0 b1 b2).ctorIdx = (decodeBytes c0 c1 b2).ctorIdx := by
  unfold decodeBytes
  generalize (opcodeField b2).toNat = op
  match op with
  | 0x0 => exact ctorIdx_decodeMisc b0 c0 b2
  | 0x1 | 0x2 | 0x3 | 0x4 | 0x5 | 0x6 | 0x7 | 0x8 | 0x9 | 0xA | 0xB | 0xC | 0xD | 0xE | _ + 15 => rfl

/-- Well-formedness looks at the constructor alone. -/
theorem wellFormed_congr {i j : Instr} (h : i.ctorIdx = j.ctorIdx) : i.wellFormed = j.wellFormed := by
  have hidx : ∀ k : Instr, k.wellFormed = decide (k.ctorIdx < Instr.reserved0B.ctorIdx) := by
    intro k
    cases k <;> rfl
  rw [hidx i, hidx j, h]

/-- Exactly 0x0B and 0x0F are reserved (R108): by the constructor, bytes 0 and 1 do not matter. -/
theorem wellFormed_decodeBytes_eq_false_iff (b0 b1 b2 : Byte) :
    (decodeBytes b0 b1 b2).wellFormed = false ↔ b2 = 0x0B#8 ∨ b2 = 0x0F#8 := by
  rw [wellFormed_congr (ctorIdx_decodeBytes b0 b1 0 0 b2)]
  revert b2
  decide

end Sys2Proof.Machine
end

section
/-! The proofs of the statements about encoding (`30_encoding.md` sections 1, 2 and 5). -/

namespace Sys2Proof.Machine

/-- Settles O2: each encoding is three packed bytes, which the decoder's arm of its opcode reads back, the immediate's
two bytes joined again or its low byte taken. -/
theorem decodeEncodeRoundTrip : Obligations.DecodeEncodeRoundTrip := by
  intro i rest
  have key : ∀ {op rd rs imm}, encode i = encodeWith op rd rs imm →
      decodeBytes (lo8 imm) (hi8 imm) (byte2 op rd rs) = i → decode (encode i ++ rest) = .ok (i, rest) := by
    intro op rd rs imm henc hdec
    rw [henc, decode_encodeWith, hdec]
  cases i with
  | ldi rd imm => exact key rfl (by rw [decodeBytes_ldi, lo8_zero_append])
  | addi rd imm => exact key rfl (by rw [decodeBytes_addi, lo8_zero_append])
  | swi n => exact key rfl ((decodeBytes_swi _ _).trans (by rw [lo8_zero_append]))
  | ld rd a => exact key rfl (by rw [decodeBytes_ld, imm16Field_lo8_hi8])
  | st a rd => exact key rfl (by rw [decodeBytes_st, imm16Field_lo8_hi8])
  | jmp a => exact key rfl (by rw [decodeBytes_jmp, imm16Field_lo8_hi8])
  | jz a => exact key rfl (by rw [decodeBytes_jz, imm16Field_lo8_hi8])
  | jnz a => exact key rfl (by rw [decodeBytes_jnz, imm16Field_lo8_hi8])
  | call a => exact key rfl (by rw [decodeBytes_call _ _ (opcodeField_byte2 ..), imm16Field_lo8_hi8])
  | add rd rs => exact key rfl (decodeBytes_add ..)
  | sub rd rs => exact key rfl (decodeBytes_sub ..)
  | and rd rs => exact key rfl (decodeBytes_and ..)
  | or rd rs => exact key rfl (decodeBytes_or ..)
  | mov rd rs => exact key rfl (decodeBytes_mov ..)
  | cmp rd rs => exact key rfl (decodeBytes_cmp ..)
  | push rd => exact key rfl (decodeBytes_push ..)
  | pop rd => exact key rfl (decodeBytes_pop ..)
  | hlt => exact key rfl (decodeBytes_hlt ..)
  | nop => exact key rfl (decodeBytes_nop ..)
  | cli => exact key rfl (decodeBytes_cli ..)
  | sti => exact key rfl (decodeBytes_sti ..)
  | rti => exact key rfl (decodeBytes_rti ..)
  | ret => exact key rfl (decodeBytes_ret ..)
  | reserved0B => exact key rfl (decodeBytes_reserved0B ..)
  | reserved0F => exact key rfl (decodeBytes_reserved0F ..)

/-- Settles O3: the constructor and the reserved encodings by the lemmas on byte 2, each format's ignored fields by its
opcodes' arms of the decoder. -/
theorem unusedFieldsAreIgnored : Obligations.UnusedFieldsAreIgnored := by
  refine ⟨ctorIdx_decodeBytes, wellFormed_decodeBytes_eq_false_iff, ?registers, ?imm8, ?loadStore, ?jumps,
    fun b0 b1 rd rs => ?hlt, fun b0 b1 rd rs h => ?misc, fun b0 b1 => ?swi⟩
  case registers | imm8 | loadStore | jumps =>
    intro b0 b1 op rd rs hop
    fin_cases hop <;> simp [decodeBytes]
  case hlt => rw [decodeBytes_hlt, decodeBytes_hlt]
  case misc =>
    have hswi : ¬ (rs = 3#2 ∧ rd = 1#2) := by
      rintro ⟨rfl, rfl⟩
      simp at h
    rw [decodeBytes_misc _ _ (opcodeField_byte2 ..), decodeBytes_misc _ _ (opcodeField_byte2 ..), decodeMisc_eq b0,
      rsField_byte2, rdField_byte2, if_neg hswi]
  case swi => rw [decodeBytes_swi, decodeBytes_swi]

/-- Settles O26: the misc dispatch's two reserved arms and the two refusals. -/
theorem reservedEncodingsRefused : Obligations.ReservedEncodingsRefused :=
  ⟨fun b0 b1 => ⟨decodeBytes_reserved0B b0 b1, decodeBytes_reserved0F b0 b1⟩, fun _ => ⟨rfl, rfl⟩⟩

/-- Settles O1, by decoding each of the seven words. -/
theorem sampleWordsDecode : Obligations.SampleWordsDecode :=
  ⟨rfl, rfl, rfl, rfl, rfl, rfl, rfl⟩

end Sys2Proof.Machine
end

section
/-! SUPPORT. What one step can do (R97, R220), and what every step keeps: RAM's canonical form and an idle host. -/

namespace Sys2Proof.Machine

/-- What the execute part can answer: a next state, or the refusal of a reserved encoding (R108). -/
theorem exec_cases (i : Instr) (s : State) :
    (i.wellFormed = true ∧ exec i s = .next (nextState i s)) ∨
    exec i s = .refused .reservedEncoding0B ∨ exec i s = .refused .reservedEncoding0F := by
  by_cases hw : i.wellFormed = true
  · exact .inl ⟨hw, exec_of_wellFormed hw s⟩
  · cases i
    case reserved0B => exact .inr (.inl rfl)
    case reserved0F => exact .inr (.inr rfl)
    all_goals exact absurd rfl hw

/-- What one step can do after the host's turn (R97, R220): nothing when halted; else, after the timer's tick, the
dispatch of a due interrupt, or the execution of the instruction it fetches. -/
theorem step_cases (s : State) :
    (s.hostTurn.halted = true ∧ step s = .next s.hostTurn) ∨
    (s.hostTurn.halted = false ∧ ∃ n, s.hostTurn.timerTick.dispatchable = some n ∧
      step s = .next (s.hostTurn.timerTick.takeInterrupt n)) ∨
    (s.hostTurn.halted = false ∧ s.hostTurn.timerTick.dispatchable = none ∧
      step s = exec s.hostTurn.timerTick.fetch.decoded s.hostTurn.timerTick.fetch) := by
  cases hh : s.hostTurn.halted with
  | true => exact .inl ⟨rfl, step_of_halted hh⟩
  | false =>
    have hstep : step s = cpuStep s.hostTurn.timerTick := by simp [step, hostedCycle, loopBody, hh, topStep]
    rw [hstep]
    rcases cpuStep_cases s.hostTurn.timerTick with ⟨hhalted, -⟩ | ⟨-, hdue⟩ | ⟨-, hnone⟩
    · rw [State.timerTick_halted, hh] at hhalted
      exact absurd hhalted Bool.false_ne_true
    · exact .inr (.inl ⟨rfl, hdue⟩)
    · exact .inr (.inr ⟨rfl, hnone⟩)

/-- A running CPU on which no interrupt is due after the tick executes the instruction it fetches (R97, R220). -/
theorem step_of_not_dispatchable {s : State} (hh : s.hostTurn.halted = false)
    (hd : s.hostTurn.timerTick.dispatchable = none) :
    step s = exec s.hostTurn.timerTick.fetch.decoded s.hostTurn.timerTick.fetch := by
  rcases step_cases s with ⟨hhalted, -⟩ | ⟨-, n, hdue, -⟩ | ⟨-, -, hstep⟩
  · exact absurd (hh.symm.trans hhalted) Bool.false_ne_true
  · cases hd.symm.trans hdue
  · exact hstep

@[simp] theorem State.writeAlu_ram (s : State) (rd : Reg) (o : AluOut) : (s.writeAlu rd o).ram = s.ram := rfl

/-- Every instruction keeps RAM's canonical form: the few that write RAM do so by the bus (R62). -/
theorem nextState_wf (i : Instr) {s : State} (h : s.ram.wf = true) : (nextState i s).ram.wf = true := by
  cases i
  case st addr rd => exact State.memWrite_wf addr (s.reg rd) h
  case call target => exact State.push16_wf s.pc h
  case push rd => exact State.push8_wf (s.reg rd) h
  case swi n => exact State.enterInterrupt_wf n h
  all_goals simpa using h

/-- Every step, whatever the host plans, keeps RAM's canonical form. -/
theorem step_keeps_wf {s t : State} (hs : s.ram.wf = true) (h : step s = .next t) : t.ram.wf = true := by
  have hturn : s.hostTurn.ram.wf = true := State.hostTurn_wf hs
  have htick : s.hostTurn.timerTick.ram.wf = true := by rwa [State.timerTick_ram]
  rcases step_cases s with ⟨-, hstep⟩ | ⟨-, n, -, hstep⟩ | ⟨-, -, hstep⟩
  · rwa [← Host.Outcome.next.inj (hstep.symm.trans h)]
  · rw [← Host.Outcome.next.inj (hstep.symm.trans h)]
    exact State.takeInterrupt_wf n htick
  · obtain ⟨-, rfl⟩ := exec_next_iff.1 (hstep.symm.trans h)
    exact nextState_wf _ (by rwa [State.fetch_ram])

/-- No step faults, and only a reserved encoding is refused (R108, R180). -/
theorem step_outcome (s : State) :
    (∃ t, step s = .next t) ∨ step s = .refused .reservedEncoding0B ∨ step s = .refused .reservedEncoding0F := by
  rcases step_cases s with ⟨-, hstep⟩ | ⟨-, n, -, hstep⟩ | ⟨-, -, hstep⟩ <;> rw [hstep]
  · exact .inl ⟨_, rfl⟩
  · exact .inl ⟨_, rfl⟩
  · exact (exec_cases _ _).imp_left fun ⟨_, hnext⟩ => ⟨_, hnext⟩

/-- A state that steps reach from a state in the invariant is in the invariant. -/
theorem Reaches.inv {n : Nat} {s t : State} (h : Reaches n s t) (hs : s.inv = true) : t.inv = true := by
  induction n generalizing s with
  | zero =>
    obtain rfl : t = s := h
    exact hs
  | succ n ih =>
    obtain ⟨u, hu, hrest⟩ := h
    exact ih hrest (step_keeps_wf hs hu)

@[simp] theorem State.takeInterrupt_hostPlan (s : State) (n : Nat) : (s.takeInterrupt n).hostPlan = s.hostPlan := by
  simp [takeInterrupt_eq]

@[simp] theorem State.writeAlu_hostPlan (s : State) (rd : Reg) (o : AluOut) :
    (s.writeAlu rd o).hostPlan = s.hostPlan := rfl

/-- No instruction touches the host's schedule (R222). -/
theorem nextState_hostPlan (i : Instr) (s : State) : (nextState i s).hostPlan = s.hostPlan := by
  cases i <;> simp

/-- The CPU's step does not touch the host's schedule (R97, R222). -/
theorem cpuStep_hostPlan {s t : State} (h : cpuStep s = .next t) : t.hostPlan = s.hostPlan := by
  rcases cpuStep_cases s with ⟨-, hstep⟩ | ⟨-, n, -, hstep⟩ | ⟨-, -, hstep⟩
  · rw [← Host.Outcome.next.inj (hstep.symm.trans h)]
  · rw [← Host.Outcome.next.inj (hstep.symm.trans h), State.takeInterrupt_hostPlan]
  · obtain ⟨-, rfl⟩ := exec_next_iff.1 (hstep.symm.trans h)
    rw [nextState_hostPlan, State.fetch_hostPlan]

/-- A halted CPU ends a run at once (R220). -/
theorem runLoop_of_halted {s : State} (h : s.halted = true) (k : Nat) : runLoop k s = .next s := by
  cases k with
  | zero => rfl
  | succ k => exact if_pos h

/-- One iteration of the driver loop that completes (R220). -/
theorem runLoop_succ_of_next {s t : State} (hh : s.halted = false) (h : topStep s = .next t) (k : Nat) :
    runLoop (k + 1) s = runLoop k t := by
  simp [runLoop, hh, h]

/-- One iteration of the driver loop that is refused (R108, R220). -/
theorem runLoop_succ_of_refused {s : State} {r : Refusal} (hh : s.halted = false) (h : topStep s = .refused r)
    (k : Nat) : runLoop (k + 1) s = .refused r := by
  simp [runLoop, hh, h]

theorem run_succ_of_next {s t : State} (h : step s = .next t) (k : Nat) :
    Host.Core.run core (k + 1) s = Host.Core.run core k t := by
  have hcore : core.step s = .next t := h
  simp only [Host.Core.run, hcore]

theorem run_succ_of_refused {s : State} {r : Refusal} (h : step s = .refused r) (k : Nat) :
    Host.Core.run core (k + 1) s = .refused r := by
  have hcore : core.step s = .refused r := h
  simp only [Host.Core.run, hcore]

/-- With a host that plans nothing a run of the model is the driver loop (R220): a halted CPU stays as it is, a running
one makes the loop's tick and step, which plan nothing either. -/
theorem run_eq_runLoop (k : Nat) {s : State} (hs : s.hostPlan = []) :
    Host.Core.run core k s = runLoop k s := by
  induction k generalizing s with
  | zero => rfl
  | succ k ih =>
    have hloop : step s = loopBody s := congrArg loopBody (State.hostTurn_nil hs)
    cases hh : s.halted with
    | true =>
      have hstep : step s = .next s := hloop.trans (if_pos hh)
      rw [run_succ_of_next hstep, ih hs, runLoop_of_halted hh, runLoop_of_halted hh]
    | false =>
      have hstep : step s = topStep s := hloop.trans (if_neg (Bool.eq_false_iff.1 hh))
      cases ht : topStep s with
      | next t =>
        have hplan : t.hostPlan = [] := (cpuStep_hostPlan ht).trans (s.timerTick_hostPlan.trans hs)
        rw [run_succ_of_next (hstep.trans ht), runLoop_succ_of_next hh ht, ih hplan]
      | fault r => cases r
      | refused r =>
        exact (run_succ_of_refused (hstep.trans ht) k).trans (runLoop_succ_of_refused hh ht k).symm

/-- A run of `m + k` iterations is a run of `k` from where a run of `m` ended (R220). -/
theorem runLoop_add {m : Nat} (k : Nat) {s t : State} (h : runLoop m s = .next t) :
    runLoop (m + k) s = runLoop k t := by
  induction m generalizing s with
  | zero => rw [Nat.zero_add, Host.Outcome.next.inj h]
  | succ m ih =>
    cases hh : s.halted with
    | true =>
      rw [runLoop_of_halted hh] at h ⊢
      rw [← Host.Outcome.next.inj h, runLoop_of_halted hh]
    | false =>
      rw [Nat.succ_add]
      cases ht : topStep s with
      | next u =>
        rw [runLoop_succ_of_next hh ht] at h ⊢
        exact ih h
      | fault r => cases r
      | refused r =>
        rw [runLoop_succ_of_refused hh ht] at h
        cases h

end Sys2Proof.Machine
end

section
/-! SUPPORT. A fetch from RAM (R99), and the word that `withFetchWord` places there (R223, log entry 8). -/

namespace Sys2Proof.Machine

/-- A decoding of exactly three bytes is the instruction that they select (R91). -/
theorem decodeBytes_of_decode {b0 b1 b2 : Byte} {i : Instr} (h : decode [b0, b1, b2] = .ok (i, [])) :
    decodeBytes b0 b1 b2 = i :=
  congrArg Prod.fst (Except.ok.inj h)

/-- A table word decodes as its three bytes do (R92). -/
theorem decodeBytes_of_decodeTableWord {w : Nat} {i : Instr} (hw : w < 2 ^ 24)
    (h : decodeTableWord 24 w = some i) :
    decodeBytes (BitVec.ofNat 8 w) (BitVec.ofNat 8 (w / 256)) (BitVec.ofNat 8 (w / 65536)) = i := by
  rw [decodeTableWord, Nat.mod_eq_of_lt hw] at h
  exact Option.some.inj h

/-- The address of byte `k` of three RAM bytes at `a` lies in RAM. -/
theorem addr_add_in_ram {a : Addr} (h : a.toNat + 2 ≤ Config.ramLast) {k : Nat} (hk : k ≤ 2) :
    (a + BitVec.ofNat 16 k).toNat ≤ Config.ramLast := by
  simp only [Config.ramLast] at h ⊢
  bv_omega

/-- A fetch of three RAM bytes has no side effect but on the instruction register and `pc` (R99). -/
theorem State.fetch_of_ram {s : State} (h : s.pc.toNat + 2 ≤ Config.ramLast) :
    s.fetch = (s.setIr ⟨s.byteAt s.pc, s.byteAt (s.pc + 1#16), s.byteAt (s.pc + 2#16)⟩).setPc (s.pc + 3#16) := by
  have h0 : s.pc.toNat ≤ Config.ramLast := Nat.le_of_add_right_le h
  have h1 : (s.pc + 1#16).toNat ≤ Config.ramLast := addr_add_in_ram h (k := 1) (by decide)
  have h2 : (s.pc + 2#16).toNat ≤ Config.ramLast := addr_add_in_ram h (k := 2) (by decide)
  simp only [fetch, byteAt, s.memRead_of_ram h0, s.memRead_of_ram h1, s.memRead_of_ram h2]
  rfl

/-- What is due after a tick depends on IE, the pending mask and the timer alone (R184, R205). -/
theorem State.timerTick_dispatchable_congr {s t : State} (hie : t.ie = s.ie) (hpend : t.pend = s.pend)
    (htmr : t.tmr = s.tmr) : t.timerTick.dispatchable = s.timerTick.dispatchable := by
  have hpend' : t.timerTick.pend = s.timerTick.pend := by
    simp only [timerTick, htmr]
    split <;> simp [raiseInterrupt_pend, hpend]
  rw [dispatchable, dispatchable, timerTick_ie, timerTick_ie, hie, hpend']

/-- An idle turn of the host takes its entry off the schedule and does nothing else (R222). -/
theorem State.hostTurn_of_idle {s : State} (h : (s.hostPlan.headD []).isEmpty = true) :
    s.hostTurn = s.setHostPlan s.hostPlan.tail := by
  unfold hostTurn
  split
  case h_1 hnil => rw [hnil, List.tail_nil, ← hnil]; rfl
  case h_2 acts plan hplan =>
    obtain rfl : acts = [] := by simpa [hplan] using h
    rw [hplan]
    rfl

/-- The parts of `fetchesNext`. -/
theorem State.fetchesNext_iff {s : State} :
    s.fetchesNext = true ↔ (s.hostPlan.headD []).isEmpty = true ∧ s.halted = false ∧
      s.timerTick.dispatchable = none ∧ s.pc.toNat + 2 ≤ Config.ramLast := by
  simp [fetchesNext, and_assoc]

/-- What `readyToFetch` makes of any state fetches next (log entry 8). -/
theorem State.readyToFetch_fetchesNext (s : State) : s.readyToFetch.fetchesNext = true := by
  refine fetchesNext_iff.2 ⟨rfl, rfl, dispatchable_of_ie_clear (timerTick_ie _), ?_⟩
  have hreset : Config.pcReset.toNat + 2 ≤ Config.ramLast := by decide
  rw [readyToFetch]
  split
  case isTrue h => exact h
  case isFalse => exact hreset

/-- A word is placed at the `pc` of a state that fetches next and has the same registers (log entry 8). -/
theorem State.withFetchWord_cases (s : State) {w : Nat} (hw : w < 2 ^ 24) :
    ∃ r : State, r.fetchesNext = true ∧ r.x = s.x ∧ s.withFetchWord 24 w = r.hostLoad (wordBytes w) r.pc := by
  rw [withFetchWord, Nat.mod_eq_of_lt hw, placeWord]
  by_cases h : s.fetchesNext = true
  · exact ⟨s, h, rfl, by rw [if_pos h]⟩
  · exact ⟨s.readyToFetch, s.readyToFetch_fetchesNext, rfl, by rw [if_neg h]⟩

/-- A state that fetches next executes the three RAM bytes at its `pc`, with the devices as the tick left them
(R97, R99). -/
theorem step_of_fetchesNext {s : State} (h : s.fetchesNext = true) :
    ∃ u : State, step s = exec (decodeBytes u.ir.b0 u.ir.b1 u.ir.b2) u ∧
      u.ir = ⟨s.byteAt s.pc, s.byteAt (s.pc + 1#16), s.byteAt (s.pc + 2#16)⟩ ∧ u.pc = s.pc + 3#16 ∧ u.x = s.x := by
  obtain ⟨hidle, hh, hd, hpc⟩ := State.fetchesNext_iff.1 h
  have hturn := State.hostTurn_of_idle hidle
  have hhalted : s.hostTurn.halted = false := by rwa [hturn]
  have hnone : s.hostTurn.timerTick.dispatchable = none := by
    rw [hturn, State.timerTick_dispatchable_congr (s.setHostPlan_ie _) (s.setHostPlan_pend _) (s.setHostPlan_tmr _)]
    exact hd
  refine ⟨_, step_of_not_dispatchable hhalted hnone, ?_, ?_, ?_⟩
  · have hbyte : ∀ k ≤ 2, s.hostTurn.timerTick.byteAt (s.pc + BitVec.ofNat 16 k) =
        s.byteAt (s.pc + BitVec.ofNat 16 k) := fun k hk => by
      rw [State.byteAt_ram _ (addr_add_in_ram hpc hk), State.byteAt_ram _ (addr_add_in_ram hpc hk),
        State.timerTick_ram, hturn, State.setHostPlan_ram]
    have hpc' : s.hostTurn.timerTick.pc = s.pc := by rw [State.timerTick_pc, hturn, State.setHostPlan_pc]
    have h0 := hbyte 0 (by decide)
    rw [BitVec.add_zero] at h0
    rw [State.fetch_of_ram (by rwa [hpc']), hpc', h0, hbyte 1 (by decide), hbyte 2 (by decide)]
    rfl
  · rw [State.fetch_pc, State.timerTick_pc, hturn, State.setHostPlan_pc]
  · rw [State.fetch_x, State.timerTick_x, hturn, State.setHostPlan_x]

/-- A load into RAM keeps a state that fetches next such a state (R223). -/
theorem State.hostLoad_fetchesNext {s : State} (h : s.fetchesNext = true) (bytes : List Byte) {a : Addr}
    (ha : a.toNat + bytes.length ≤ 0xF000) : (s.hostLoad bytes a).fetchesNext = true := by
  obtain ⟨-, -, ⟨hpc, -⟩, ⟨hie, hpend, hhalted⟩, -, hplan, -⟩ := s.hostLoad_frame bytes a
  obtain ⟨htmr, -⟩ := s.hostLoad_ram_devices bytes a ha
  rw [fetchesNext_iff] at h ⊢
  rwa [hplan, hhalted, hpc, timerTick_dispatchable_congr hie hpend htmr]

end Sys2Proof.Machine
end

section
/-! The proofs of the statements about the step and the whole machine (`30_encoding.md` section 3,
`60_exceptions.md` section 6, `70_reset_and_hazards.md` section 2). -/

namespace Sys2Proof.Machine

/-- Settles O45: the host's turn, the tick, the dispatch, the fetch and the execute part each keep the form, since all
of them reach RAM by the bus. -/
theorem stepKeepsCanonicalRam : Obligations.StepKeepsCanonicalRam := fun _ _ => step_keeps_wf

/-- Settles O44: an arm of `exec` for each of the 23, and the cases of a step. -/
theorem everyInstructionCompletes : Obligations.EveryInstructionCompletes :=
  ⟨fun _ s h => ⟨_, exec_of_wellFormed h s⟩, step_outcome⟩

/-- Settles O46, by induction on the number of steps that reach a state. -/
theorem runsFromInvariantAreSafe : Obligations.RunsFromInvariantAreSafe := by
  intro s hs n t hreach
  refine (step_outcome t).imp_left fun ⟨u, hu⟩ => ⟨u, hu, ?_⟩
  exact step_keeps_wf (hreach.inv hs) hu

/-- Settles O51, by induction on the number of iterations. -/
theorem stepsAreTheDriverLoop : Obligations.StepsAreTheDriverLoop :=
  ⟨fun k _ => run_eq_runLoop k, fun _ k _ _ => runLoop_add k⟩

/-- Settles O52: the word is loaded at the `pc` of a state that fetches next, which the load keeps so, and its three
bytes read back. -/
theorem placedWordRunsNext : Obligations.PlacedWordRunsNext := by
  intro s w i hw hi
  obtain ⟨r, hr, hx, hplaced⟩ := s.withFetchWord_cases hw
  obtain ⟨-, -, -, hpc⟩ := State.fetchesNext_iff.1 hr
  have hfits : r.pc.toNat + (wordBytes w).length ≤ 0xF000 := by
    simp only [Config.ramLast] at hpc
    simp only [wordBytes, List.length_cons, List.length_nil]
    omega
  obtain ⟨hregs, -, ⟨hpc', -⟩, -⟩ := r.hostLoad_frame (wordBytes w) r.pc
  obtain ⟨u, hstep, hir, hupc, hux⟩ := step_of_fetchesNext (State.hostLoad_fetchesNext hr _ hfits)
  have hbyte : ∀ k < 3, (r.hostLoad (wordBytes w) r.pc).byteAt (r.pc + BitVec.ofNat 16 k) =
      (wordBytes w).getD k 0x00#8 := fun k => r.byteAt_hostLoad_own (wordBytes w) r.pc hfits
  have h0 := hbyte 0 (by decide)
  rw [BitVec.add_zero] at h0
  rw [hpc', h0, hbyte 1 (by decide), hbyte 2 (by decide)] at hir
  rw [hplaced]
  refine ⟨u, ?_, hir, hupc, fun q => ?_⟩
  · rw [hstep, hir]
    exact congrArg (exec · u) (decodeBytes_of_decodeTableWord hw hi)
  · calc u.reg q = (r.hostLoad (wordBytes w) r.pc).reg q := congrArg (RegFile.get · q) hux
      _ = r.reg q := hregs q
      _ = s.reg q := congrArg (RegFile.get · q) hx

/-- Settles O4: an idle host, no halt and nothing due leave the fetch, whose three reads are those of the statement. -/
theorem stepRunsDecodedInstruction : Obligations.StepRunsDecodedInstruction := by
  intro s i hplan hh hd u r0 r1 r2 hdec _
  have hturn := State.hostTurn_nil hplan
  have hfetch : u.fetch = (r2.2.setIr ⟨r0.1, r1.1, r2.1⟩).setPc (s.pc + 3#16) := by
    rw [← s.timerTick_pc]
    rfl
  have hi : u.fetch.decoded = i := decodeBytes_of_decode hdec
  rw [step_of_not_dispatchable (by rwa [hturn]) (by rwa [hturn]), hturn, ← hfetch]
  exact congrArg (exec · u.fetch) hi

/-- Settles O48: the values by definition; the idle timer's tick changes nothing, and the fetch reads the power-on bytes at
0, 1 and 2. -/
theorem powerOnStateAsStated : Obligations.PowerOnStateAsStated :=
  ⟨rfl, rfl, rfl, rfl, rfl, rfl, rfl, reset_ram_wf, step_of_not_dispatchable (s := State.reset) rfl rfl⟩

end Sys2Proof.Machine
end

section
/-! SUPPORT. The timer's tick case by case and over a whole period, and the device registers as numbers (R204, R205,
R213). -/

namespace Sys2Proof.Machine

/-- A tick fires exactly on an enabled timer with a count of 1 (R205). -/
theorem Timer.fires_eq (t : Timer) : t.fires = (t.enable && decide (t.counter = 1#8)) := by
  have hzero : t.counter - 1#8 = 0#8 ↔ t.counter = 1#8 := sub_eq_zero
  simp only [fires, hzero]

/-- A disabled timer does not count (R205). -/
theorem Timer.tick_of_disabled {t : Timer} (h : t.enable = false) : t.tick = t := by
  simp [tick, fires_eq, h]

/-- A count other than 1 goes down by one, 0 to 0xFF (R205, decision D8). -/
theorem Timer.tick_of_counter_ne_one {t : Timer} (he : t.enable = true) (hc : t.counter ≠ 1#8) :
    t.tick = ⟨t.reload, t.counter - 1#8, true, t.fired⟩ := by
  simp [tick, fires_eq, he, hc]

/-- A count of 1 fires and reloads (R205). -/
theorem Timer.tick_of_counter_eq_one {t : Timer} (he : t.enable = true) (hc : t.counter = 1#8) :
    t.tick = ⟨t.reload, t.reload, true, true⟩ := by
  simp [tick, fires_eq, he, hc]

/-- A tick that does not fire is the timer's own part alone (R205). -/
theorem State.timerTick_of_not_fires {s : State} (h : s.tmr.fires = false) :
    s.timerTick = s.setTmr s.tmr.tick := by
  simp [timerTick, h]

/-- Before its period `p` is over an enabled timer, loaded with `p` modulo 256, has counted down once per tick and not
fired: no count before tick `p` is 1 (decisions D8 and D9). -/
theorem Timer.repeat_tick {t : Timer} (he : t.enable = true) (hc : t.counter = t.reload) {p : Nat}
    (hp : t.reload = BitVec.ofNat 8 p) (hle : p ≤ 256) {k : Nat} (hk : k < p) :
    Nat.repeat tick k t = ⟨t.reload, t.reload - BitVec.ofNat 8 k, true, t.fired⟩ := by
  induction k with
  | zero =>
    calc t = ⟨t.reload, t.counter, t.enable, t.fired⟩ := rfl
      _ = ⟨t.reload, t.reload - BitVec.ofNat 8 0, true, t.fired⟩ := by rw [hc, he, BitVec.sub_zero]
  | succ k ih =>
    have hne : t.reload - BitVec.ofNat 8 k ≠ 1#8 := by
      rw [hp]
      bv_omega
    have hcount : t.reload - BitVec.ofNat 8 k - 1#8 = t.reload - BitVec.ofNat 8 (k + 1) := by
      rw [BitVec.sub_sub, BitVec.ofNat_add]
    rw [Nat.repeat, ih (Nat.lt_of_succ_lt hk), tick_of_counter_ne_one rfl hne, hcount]

/-- The tick that ends the period finds a count of 1, fires and reloads (R205). -/
theorem Timer.repeat_tick_period {t : Timer} (he : t.enable = true) (hc : t.counter = t.reload) {p : Nat}
    (hp : t.reload = BitVec.ofNat 8 p) (hle : p ≤ 256) (hpos : 0 < p) :
    Nat.repeat tick p t = ⟨t.reload, t.reload, true, true⟩ := by
  obtain ⟨k, rfl⟩ := Nat.exists_eq_add_of_lt hpos
  have hone : t.reload - BitVec.ofNat 8 k = 1#8 := by
    rw [hp]
    bv_omega
  rw [Nat.zero_add] at hp hle ⊢
  rw [Nat.repeat, repeat_tick he hc hp hle k.lt_succ_self, tick_of_counter_eq_one rfl hone]

/-- The timer's register 1 as a number: fired in bit 0, enable in bit 1 (R204). -/
theorem Timer.read1_toNat (t : Timer) : t.read1.toNat = t.fired.toNat + 2 * t.enable.toNat := by
  calc t.read1.toNat
      = (((0#6).concat t.enable).concat t.fired).toNat := rfl
    _ = t.fired.toNat + 2 * t.enable.toNat := by
        simp only [BitVec.toNat_concat, BitVec.toNat_ofNat]
        omega

/-- The UART's status as a number: transmit ready always, and bit 0 when a byte waits (R213). -/
theorem Uart.readStatus_toNat (u : Uart) : u.readStatus.toNat = if u.rx = [] then 2 else 3 := by
  unfold readStatus
  cases u.rx with
  | nil => decide
  | cons v rx => exact (by decide : (0#6 ++ 1#1 ++ BitVec.ofBool true).toNat = 3)

end Sys2Proof.Machine
end

section
/-! The proofs of the statements about the timer and the device registers (`60_exceptions.md` sections 4 and 5). -/

namespace Sys2Proof.Machine

/-- Settles O31: the three cases of the timer's tick; interrupt 1's bit of the pending mask is 0x02. -/
theorem timerTickCountsDown : Obligations.TimerTickCountsDown := by
  refine fun s => ⟨fun he => ?_, fun he hc => ?_, fun he hc => ?_⟩
  · rw [State.timerTick_of_not_fires (by simp [Timer.fires_eq, he]), Timer.tick_of_disabled he]
    rfl
  · rw [State.timerTick_of_not_fires (by simp [Timer.fires_eq, hc]), Timer.tick_of_counter_ne_one he hc]
  · have hfires : s.tmr.fires = true := by simp [Timer.fires_eq, he, hc]
    rw [State.timerTick, if_pos hfires, Timer.tick_of_counter_eq_one he hc, State.raiseInterrupt_of_le _ (by decide)]
    rfl

/-- Settles O32, by induction on the ticks before the period ends. -/
theorem timerPeriodIsReload : Obligations.TimerPeriodIsReload := by
  intro t he hc period
  have hperiod : t.reload = BitVec.ofNat 8 period ∧ period ≤ 256 ∧ 0 < period := by
    by_cases h0 : t.reload = 0#8
    · have hwrap : period = 256 := if_pos h0
      rw [hwrap, h0]
      decide
    · have hval : period = t.reload.toNat := if_neg h0
      rw [hval]
      exact ⟨BitVec.eq_of_toNat_eq (by simp), t.reload.isLt.le,
        Nat.pos_of_ne_zero fun h => h0 (BitVec.eq_of_toNat_eq h)⟩
  obtain ⟨hp, hle, hpos⟩ := hperiod
  exact ⟨fun k => Timer.repeat_tick he hc hp hle, Timer.repeat_tick_period he hc hp hle hpos⟩

/-- Settles O29: the registers' definitions, read as numbers. -/
theorem deviceRegisterValues : Obligations.DeviceRegisterValues :=
  ⟨fun t _ => ⟨rfl, rfl, rfl, t.read1_toNat⟩, Uart.readStatus_toNat⟩

end Sys2Proof.Machine
end

section
/-! SUPPORT. Later bus writes, two-byte reads and the vector's read by where they lie (R62, R64, R73, R194), and the
frame of a change of IE (R166, R167). -/

namespace Sys2Proof.Machine

/-- Writing IE changes nothing else (R166, R167). -/
theorem State.setIe_frame (s : State) (v : Bool) :
    (s.setIe v).pend = s.pend ∧ (s.setIe v).halted = s.halted ∧ PointersKept s (s.setIe v) ∧
    RegsKept s (s.setIe v) ∧ FlagsKept s (s.setIe v) ∧ DevicesKept s (s.setIe v) ∧ OutsideKept s (s.setIe v) ∧
    BytesKept s (s.setIe v) :=
  ⟨rfl, rfl, ⟨rfl, rfl⟩, fun _ => rfl, ⟨rfl, rfl⟩, ⟨rfl, rfl⟩, ⟨rfl, rfl, rfl, rfl⟩, s.byteAt_setIe v⟩

/-- A running CPU on which no interrupt is due fetches (R97). -/
theorem cpuStep_of_not_dispatchable {s : State} (hh : s.halted = false) (hn : s.dispatchable = none) :
    cpuStep s = exec s.fetch.decoded s.fetch := by
  simp [cpuStep, hh, hn]

/-- Any number of bus writes to other addresses leave the read of an address alone (R62). -/
theorem State.byteAt_memWrites_ne (writes : List (Addr × Byte)) (s : State) {a : Addr}
    (h : ∀ w ∈ writes, w.1 ≠ a) : (writes.foldl (fun t w => t.memWrite w.1 w.2) s).byteAt a = s.byteAt a := by
  induction writes generalizing s with
  | nil => rfl
  | cons w writes ih =>
    obtain ⟨hw, hrest⟩ := List.forall_mem_cons.1 h
    rw [List.foldl_cons, ih (s.memWrite w.1 w.2) hrest, s.byteAt_memWrite_ne w.2 (Ne.symm hw)]

/-- A two-byte read from RAM has no side effect (R73). -/
theorem State.read16LE_of_ram (s : State) {a : Addr} (hlo : a.toNat ≤ Config.ramLast)
    (hhi : (a + 1#16).toNat ≤ Config.ramLast) :
    s.read16LE a = (imm16Field (s.byteAt a) (s.byteAt (a + 1#16)), s) := by
  simp only [read16LE, byteAt, s.memRead_of_ram hlo, s.memRead_of_ram hhi]

/-- Interrupt entry jumps to the vector it reads after the frame is stored, and the read leaves the UART as it does
anywhere (R186, R194). -/
theorem State.enterInterrupt_of_vector (s : State) {n : Byte} {v target : Addr} {t : State}
    (hv : BitVec.ofNat 16 (0xEFF0 + 2 * n.toNat) = v) (hread : s.storeFrame.read16LE v = (target, t)) :
    (s.enterInterrupt n).pc = target ∧ (s.enterInterrupt n).uart = t.uart := by
  rw [enterInterrupt_eq, vectorAddr_eq, hv, hread]
  exact ⟨rfl, rfl⟩

/-- The vectors of the eight interrupts lie in RAM, where the frame just stored may overlap them (R186). -/
theorem State.enterInterrupt_pc_of_table (s : State) {n : Byte} {lo hi : Addr} (hlo : lo.toNat = 0xEFF0 + 2 * n.toNat)
    (hhi : hi.toNat = lo.toNat + 1) (hn : n.toNat ≤ 7) :
    (s.enterInterrupt n).pc.toNat = (s.storeFrame.byteAt hi).toNat * 256 + (s.storeFrame.byteAt lo).toNat := by
  have hv : BitVec.ofNat 16 (0xEFF0 + 2 * n.toNat) = lo := by bv_omega
  have hv1 : lo + 1#16 = hi := by bv_omega
  have hloRam : lo.toNat ≤ Config.ramLast := by simp only [Config.ramLast]; omega
  have hhiRam : (lo + 1#16).toNat ≤ Config.ramLast := by simp only [hv1, Config.ramLast]; omega
  obtain ⟨hpc, -⟩ := s.enterInterrupt_of_vector hv (read16LE_of_ram _ hloRam hhiRam)
  rw [hpc, toNat_imm16Field, hv1]

/-- A frame stored in RAM reaches no UART either (R62, R187). -/
theorem State.storeFrame_uart (s : State) (hhi : (s.sp - 1#16).toNat ≤ Config.ramLast)
    (hlo : (s.sp - 2#16).toNat ≤ Config.ramLast) (hf : (s.sp - 3#16).toNat ≤ Config.ramLast) :
    s.storeFrame.uart = s.uart := by
  rw [storeFrame, (memWrite_ram_devices _ _ hf).2, (memWrite_ram_devices _ _ hlo).2, (memWrite_ram_devices _ _ hhi).2]

/-- A return whose frame of flags `f` and return address `ra` lies in RAM (R168). -/
theorem State.returnFromInterrupt_of_ram {u : State} {f : Byte} {ra : Addr} (hf : u.sp.toNat ≤ Config.ramLast)
    (hlo : (u.sp + 1#16).toNat ≤ Config.ramLast) (hhi : (u.sp + 2#16).toNat ≤ Config.ramLast)
    (ef : u.byteAt u.sp = f) (elo : u.byteAt (u.sp + 1#16) = lo8 ra) (ehi : u.byteAt (u.sp + 2#16) = hi8 ra) :
    u.returnFromInterrupt = ((u.setSp (u.sp + 3#16)).unpackFlags f).setPc ra := by
  have hsp : u.sp + 1#16 + 1#16 = u.sp + 2#16 := BitVec.add_assoc ..
  have hread : u.memRead u.sp = (f, u) := by rw [u.memRead_of_ram hf, ← u.byteAt_ram hf, ef]
  have hra : u.read16LE (u.sp + 1#16) = (ra, u) := by
    rw [u.read16LE_of_ram hlo (by rwa [hsp]), hsp, elo, ehi, imm16Field_lo8_hi8]
  rw [returnFromInterrupt_eq, hread, hra]

end Sys2Proof.Machine
end

section
/-! The proofs of the statements about RAM and interrupts (`20_memory.md`, `44_system.md`, `60_exceptions.md`
section 2, `70_reset_and_hazards.md` section 3). -/

namespace Sys2Proof.Machine

/-- Settles O28: a write to another address, device or RAM, changes no read of `a`; at reset nothing is listed. -/
theorem ramReadReturnsLatestWrite : Obligations.RamReadReturnsLatestWrite := by
  intro s a v later ha hlater
  refine ⟨?_, s.byteAt_memWrites_ne later hlater, ?_⟩
  · rw [(s.memWrite a v).byteAt_memWrites_ne later hlater, s.byteAt_memWrite_same v ha]
  · rw [State.reset.byteAt_memWrites_ne later hlater, State.reset.byteAt_ram ha]
    rfl

/-- Settles O33: a raise in range is one write of the pending mask. -/
theorem raiseInterruptSetsPendingBit : Obligations.RaiseInterruptSetsPendingBit := by
  refine fun s n => ⟨fun hn => ?_, fun hn => if_neg (Nat.not_le_of_lt hn)⟩
  obtain ⟨hset, hothers⟩ := getLsbD_set_irqBit s.pend (Nat.lt_succ_of_le hn)
  exact ⟨_, s.raiseInterrupt_of_le hn, hset, hothers⟩

/-- Settles O23: one write of IE; the CPU's next step tests IE before it fetches. -/
theorem cliStiSetInterruptEnable : Obligations.CliStiSetInterruptEnable := by
  refine ⟨decodeBytes_cli, decodeBytes_sti, fun s => ?_, fun s => ?_⟩
  · obtain ⟨hpend, hhalted, hptrs, hregs, hflags, hdev, hout, hbytes⟩ := s.setIe_frame false
    exact ⟨_, rfl, rfl, hpend, hhalted, hptrs, hregs, hflags, hdev, hout, hbytes, fun hh =>
      cpuStep_of_not_dispatchable hh (State.dispatchable_of_ie_clear rfl)⟩
  · obtain ⟨hpend, hhalted, hptrs, hregs, hflags, hdev, hout, hbytes⟩ := s.setIe_frame true
    refine ⟨_, rfl, rfl, hpend, hhalted, hptrs, hregs, hflags, hdev, hout, hbytes, fun hh hp => ?_⟩
    obtain ⟨n, hdue, hlow⟩ := State.dispatchable_of_pending rfl hp
    obtain ⟨hn, -, -⟩ := lowestPending_some hlow
    exact ⟨n, hn, cpuStep_of_dispatchable hh hdue⟩

/-- Settles O35: the return reads the three bytes that the entry stored, and moves the stack pointer back. -/
theorem interruptRoundTripRestores : Obligations.InterruptRoundTripRestores := by
  intro s u n hhi hlo hf hsp hframe
  rw [s.enterInterrupt_sp n] at hsp
  have hlo_addr : u.sp + 1#16 = s.sp - 2#16 := by bv_omega
  have hhi_addr : u.sp + 2#16 = s.sp - 1#16 := by bv_omega
  have hsp_back : u.sp + 3#16 = s.sp := by bv_omega
  obtain ⟨ehi, elo, ef, -⟩ := s.storeFrame_in_ram hhi hlo hf
  obtain ⟨hhi_kept, hlo_kept, hf_kept⟩ : _ ∧ _ ∧ _ := by simpa using hframe
  rw [s.byteAt_enterInterrupt_ram n hhi, ehi] at hhi_kept
  rw [s.byteAt_enterInterrupt_ram n hlo, elo] at hlo_kept
  rw [s.byteAt_enterInterrupt_ram n hf, ef] at hf_kept
  have hret : u.returnFromInterrupt = ((u.setSp s.sp).unpackFlags s.packFlags).setPc s.pc := by
    rw [← hsp_back]
    exact State.returnFromInterrupt_of_ram (by rwa [hsp]) (by rwa [hlo_addr]) (by rwa [hhi_addr])
      (by rwa [hsp]) (by rwa [hlo_addr]) (by rwa [hhi_addr])
  obtain ⟨hz, hc, hie⟩ := s.packFlags_bits
  exact ⟨_, exec_next_iff.2 ⟨rfl, hret.symm⟩, hz, hc, hie, rfl, rfl⟩

/-- Settles O36: from the reset stack pointer the frame lies at 0xEFFC to 0xEFFE, above the vectors of entries 0 to 5,
on the vector of entry 6 and on the low byte of entry 7's. -/
theorem vectorsReadAfterTheFrame : Obligations.VectorsReadAfterTheFrame := by
  intro s n hsp
  obtain ⟨ehi, elo, ef, -⟩ := s.storeFrame_in_ram (by rw [hsp]; decide) (by rw [hsp]; decide) (by rw [hsp]; decide)
  have hother : ∀ a : Addr, a.toNat < 0xEFFC ∨ a = 0xEFFF#16 → s.storeFrame.byteAt a = s.ram.read a.toNat := by
    intro a ha
    have hram : a.toNat ≤ Config.ramLast := by simp only [Config.ramLast]; bv_omega
    rw [s.byteAt_storeFrame_other, s.byteAt_ram hram]
    simp only [hsp, List.mem_cons, List.not_mem_nil, or_false]
    bv_omega
  rw [hsp] at ehi elo ef
  refine ⟨fun hn => ?_, ?_, ?_⟩
  · have hlo : (BitVec.ofNat 16 (0xEFF0 + 2 * n.toNat)).toNat = 0xEFF0 + 2 * n.toNat := by bv_omega
    have hhi : (BitVec.ofNat 16 (0xEFF1 + 2 * n.toNat)).toNat = 0xEFF1 + 2 * n.toNat := by bv_omega
    rw [s.enterInterrupt_pc_of_table hlo (hhi.trans (by omega)) (by omega), hother _ (.inl (by omega)),
      hother _ (.inl (by omega)), hhi, hlo]
  · rintro rfl
    rw [s.enterInterrupt_pc_of_table (lo := 0xEFFC#16) (hi := 0xEFFD#16) rfl rfl (by decide), ← elo, ← ef]
    rfl
  · rintro rfl
    rw [s.enterInterrupt_pc_of_table (lo := 0xEFFE#16) (hi := 0xEFFF#16) rfl rfl (by decide), ← ehi,
      hother 0xEFFF#16 (.inr rfl)]
    rfl

/-- Settles O37: the vectors from number 8 on lie in the I/O window, which the frame in RAM leaves alone; the two reads
are those of the devices there (O27), or of unmapped I/O. -/
theorem swiBeyondTableReadsDevices : Obligations.SwiBeyondTableReadsDevices := by
  intro s n hhi hlo hf
  obtain ⟨-, -, -, htmr⟩ := s.storeFrame_in_ram hhi hlo hf
  have huart := s.storeFrame_uart hhi hlo hf
  have hroutes := busRoutesAccesses.1
  refine ⟨_, rfl, ?_, ?_, fun hn => ?_⟩
  · rintro rfl
    obtain ⟨-, hreload, -⟩ := hroutes s.storeFrame 0xF000#16
    obtain ⟨-, -, hcontrol, -⟩ := hroutes s.storeFrame 0xF001#16
    have hread : s.storeFrame.read16LE 0xF000#16 = (imm16Field s.tmr.read0 s.tmr.read1, s.storeFrame) := by
      rw [State.read16LE, hreload rfl, ← htmr]
      simp only [show 0xF000#16 + 1#16 = 0xF001#16 from rfl, hcontrol rfl]
    obtain ⟨hpc, hu⟩ := s.enterInterrupt_of_vector (n := 8#8) rfl hread
    rw [hpc, hu, huart, toNat_imm16Field, Timer.read1_toNat]
    exact ⟨by rw [Timer.read0]; omega, rfl⟩
  · rintro rfl
    obtain ⟨-, -, -, hdata, -⟩ := hroutes s.storeFrame 0xF002#16
    obtain ⟨-, -, -, -, hstatus, -⟩ := hroutes (s.storeFrame.setUart ⟨s.uart.rx.tail, s.uart.tx⟩) 0xF003#16
    have hread : s.storeFrame.read16LE 0xF002#16 =
        (imm16Field (s.uart.rx.headD 0x00#8) (Uart.readStatus ⟨s.uart.rx.tail, s.uart.tx⟩),
          s.storeFrame.setUart ⟨s.uart.rx.tail, s.uart.tx⟩) := by
      rw [State.read16LE, hdata rfl, huart, Uart.readData_eq]
      simp only [show 0xF002#16 + 1#16 = 0xF003#16 from rfl, hstatus rfl, State.setUart_uart]
    obtain ⟨hpc, hu⟩ := s.enterInterrupt_of_vector (n := 9#8) rfl hread
    rw [hpc, hu, toNat_imm16Field, Uart.readStatus_toNat]
    exact ⟨rfl, by dsimp only; omega⟩
  · have hlo_io : 0xF004 ≤ (BitVec.ofNat 16 (0xEFF0 + 2 * n.toNat)).toNat := by bv_omega
    have hhi_io : 0xF004 ≤ (BitVec.ofNat 16 (0xEFF0 + 2 * n.toNat) + 1#16).toNat := by bv_omega
    have hread : s.storeFrame.read16LE (BitVec.ofNat 16 (0xEFF0 + 2 * n.toNat)) = (0x0000#16, s.storeFrame) := by
      rw [State.read16LE, State.memRead_unmapped _ hlo_io]
      simp only [State.memRead_unmapped _ hhi_io]
      rfl
    obtain ⟨hpc, hu⟩ := s.enterInterrupt_of_vector rfl hread
    exact ⟨hpc, hu.trans huart⟩

end Sys2Proof.Machine
end

section
/-! SUPPORT. Interference: a shared operation that packs no flags, started with other flags, answers the same, but for
the flags (R28). -/

namespace Sys2Proof.Machine

theorem State.byteAt_setFlags (s : State) (z c : Bool) (a : Addr) :
    (s.setFlags z c).byteAt a = s.byteAt a :=
  byteAt_congr (s.setFlags_ram z c) (s.setFlags_tmr z c) (s.setFlags_uart z c) a

theorem State.memRead_setFlags (s : State) (z c : Bool) (a : Addr) :
    (s.setFlags z c).memRead a = ((s.memRead a).1, (s.memRead a).2.setFlags z c) := by
  refine Prod.ext (s.byteAt_setFlags z c a) ?_
  rw [memRead_state, memRead_state]
  rfl

theorem State.memWrite_setFlags (s : State) (z c : Bool) (a : Addr) (v : Byte) :
    (s.setFlags z c).memWrite a v = (s.memWrite a v).setFlags z c := by
  unfold memWrite
  split
  · rfl
  · unfold ioWrite
    split <;> rfl

theorem State.push8_setFlags (s : State) (z c : Bool) (v : Byte) :
    (s.setFlags z c).push8 v = (s.push8 v).setFlags z c :=
  memWrite_setFlags (s.setSp (s.sp - 1#16)) z c _ v

theorem State.push16_setFlags (s : State) (z c : Bool) (w : Addr) :
    (s.setFlags z c).push16 w = (s.push16 w).setFlags z c := by
  simp only [push16, push8_setFlags]

theorem State.pop8_setFlags (s : State) (z c : Bool) :
    (s.setFlags z c).pop8 = (s.pop8.1, s.pop8.2.setFlags z c) := by
  simp only [pop8, memRead_setFlags, setFlags_sp]
  rfl

theorem State.pop16_setFlags (s : State) (z c : Bool) :
    (s.setFlags z c).pop16 = (s.pop16.1, s.pop16.2.setFlags z c) := by
  simp only [pop16, pop8_setFlags]

/-- The return from an interrupt overwrites both flags, so it does not look at them (R168). -/
theorem State.returnFromInterrupt_setFlags (s : State) (z c : Bool) :
    (s.setFlags z c).returnFromInterrupt = s.returnFromInterrupt := by
  simp only [returnFromInterrupt, pop8_setFlags, pop16_setFlags]
  rfl

/-- Two instructions test Z and one saves both flags (R28); every other one, started with other flags, either overwrites
both, or passes both through and changes nothing else. The two tests of Z are left in when `z` is the Z there is. -/
theorem nextState_setFlags {i : Instr} {s : State} {z : Bool} (c : Bool) (hswi : ∀ n, i ≠ .swi n)
    (hz : z = s.z ∨ (∀ a, i ≠ .jz a) ∧ ∀ a, i ≠ .jnz a) :
    nextState i (s.setFlags z c) = nextState i s ∨
    (FlagsKept s (nextState i s) ∧ nextState i (s.setFlags z c) = (nextState i s).setFlags z c) := by
  cases i
  case add | sub | and | or | cmp | addi => exact .inl rfl
  case rti => exact .inl (s.returnFromInterrupt_setFlags z c)
  case swi n => exact absurd rfl (hswi n)
  all_goals refine .inr ⟨by simp [FlagsKept], ?_⟩
  case jz target =>
    obtain rfl : z = s.z := hz.resolve_right fun ⟨hjz, _⟩ => hjz target rfl
    rfl
  case jnz target =>
    obtain rfl : z = s.z := hz.resolve_right fun ⟨_, hjnz⟩ => hjnz target rfl
    rfl
  case ld rd addr => simp only [nextState, State.memRead_setFlags]; rfl
  case st addr rd => exact s.memWrite_setFlags z c addr (s.reg rd)
  case call target => simp only [nextState, State.setFlags_pc, State.push16_setFlags]; rfl
  case push rd => exact s.push8_setFlags z c (s.reg rd)
  case pop rd => simp only [nextState, State.pop8_setFlags]; rfl
  case ret => simp only [nextState, State.pop16_setFlags]; rfl
  all_goals rfl

end Sys2Proof.Machine
end

section
/-! The proofs of the statements about who writes and reads what (`10_state.md` sections 2 to 4). -/

namespace Sys2Proof.Machine

/-- Settles O39: an instruction that overwrites both flags ends in the same state, one that passes them through in a
state that differs in them alone. -/
theorem flagsReadOnlyByJumpsAndEntry : Obligations.FlagsReadOnlyByJumpsAndEntry := by
  refine ⟨fun i s t b hswi h => ?_, fun i s t b hswi hjz hjnz h => ?_, fun s => ?_⟩
  · obtain ⟨hw, rfl⟩ := exec_next_iff.1 h
    refine ⟨_, exec_of_wellFormed hw _, ?_⟩
    rcases nextState_setFlags b hswi (.inl rfl) with heq | ⟨⟨hz, -⟩, heq⟩ <;> rw [heq]
    rw [hz]
    rfl
  · obtain ⟨hw, rfl⟩ := exec_next_iff.1 h
    refine ⟨_, exec_of_wellFormed hw _, ?_⟩
    rcases nextState_setFlags s.c hswi (.inr ⟨hjz, hjnz⟩) with heq | ⟨⟨-, hc⟩, heq⟩ <;> rw [heq]
    rw [hc]
    rfl
  · obtain ⟨hz, hc, -⟩ := s.packFlags_bits
    exact ⟨hz, hc⟩

/-- Settles O40: the nine write their register last, over a bus access or a flag write that touches none; every other
instruction keeps the whole register file. -/
theorem atMostRdIsWritten : Obligations.AtMostRdIsWritten := by
  intro i s t h
  obtain ⟨-, rfl⟩ := exec_next_iff.1 h
  cases i
  case ldi rd imm => exact fun q => s.reg_setReg_other imm
  case mov rd rs => exact fun q => s.reg_setReg_other (s.reg rs)
  case add rd _ | sub rd _ | and rd _ | or rd _ | addi rd _ =>
    obtain ⟨hregs, -⟩ := s.writeAlu_frame rd _
    exact hregs
  case ld rd addr => exact fun q hq => (State.reg_setReg_other _ _ hq).trans (s.memRead_reg addr q)
  case pop rd => exact fun q hq => (State.reg_setReg_other _ _ hq).trans (congrArg (RegFile.get · q) s.pop8_x)
  all_goals exact fun q => congrArg (RegFile.get · q) (by simp)

/-- Settles O41: the stack operations move the stack pointer by the bytes they push or pop; every other update keeps
it. -/
theorem spMovesOnlyByPushAndPop : Obligations.SpMovesOnlyByPushAndPop := by
  intro i s t h
  obtain ⟨-, rfl⟩ := exec_next_iff.1 h
  cases i
  case push rd => exact s.push8_sp (s.reg rd)
  case call target => exact s.push16_sp s.pc
  case swi n => exact s.enterInterrupt_sp n
  case pop rd => exact s.pop8_sp
  case ret => exact s.pop16_sp
  case rti => exact s.returnFromInterrupt_sp
  case add | sub | and | or | cmp | addi => rfl
  all_goals simp

end Sys2Proof.Machine
end

section
/-! The proofs of the statements about the adder and the program counter at gate level (`41_alu.md` section 1,
`10_state.md` section 8). -/

namespace Sys2Proof.Machine

/-- Settles O53: the sum's bits with the carry-out on top are the exact sum, and the bits alone are below `2 ^ N`. -/
theorem rippleAdderAdds : Obligations.RippleAdderAdds := by
  intro xs ys cin h
  have hlen := length_rippleAdder cin h
  have hlt : bitsToNat (rippleAdder xs ys cin).1 < 2 ^ xs.length := hlen ▸ bitsToNat_lt _
  rw [← rippleAdder_value cin h]
  refine ⟨hlen, ?_, ?_⟩
  · rw [Nat.add_mul_mod_self_left, Nat.mod_eq_of_lt hlt]
  · cases (rippleAdder xs ys cin).2
    · simpa using hlt
    · simp

/-- Reset drives every bit of the program counter low (R48). -/
theorem map_false_bitsOf {n : Nat} (v : BitVec n) : (bitsOf v).map (fun _ => false) = bitsOf 0#n :=
  List.ext_getElem (by simp) (by simp [bitsOf])

/-- Settles O59: the adder's sum of the value and 3, then the two multiplexers. -/
theorem pcStructureAdvancesOrJumps : Obligations.PcStructureAdvancesOrJumps := by
  intro v a reset jump
  have hsum : BitVec.ofNat 16 (v.toNat + Config.pcStep.toNat + false.toNat) = v + 3#16 :=
    (BitVec.add_def v Config.pcStep).symm
  rw [pcEdge, rippleAdder_bitsOf, hsum, mux2_bitsOf, map_false_bitsOf, mux2_bitsOf]

end Sys2Proof.Machine
end
